-- ==== Sys2Proof/Word.lean ====
section
/-! DEFINITION. The word types of the model (00_scope.md R12, R13; 10_state.md R20, R22; 30_encoding.md R96).
Bit 0 is the least significant bit of every word, as R12 fixes it. -/

namespace Sys2Proof

/-- A 64-bit word: the register ID_AA64MMFR3_EL1 (R20), a general register `X[t, 64]` (R56), the `pc` (R57). -/
abbrev Word := BitVec 64

/-- A byte of the program text (R75). -/
abbrev Byte := BitVec 8

/-- An A64 instruction word: every instruction in scope is one 32-bit word (R96). -/
abbrev InstrWord := BitVec 32

/-- A 4-bit field value of the register (R22). -/
abbrev Nibble := BitVec 4

end Sys2Proof
end

