-- ==== Sys2Proof/Machine/IdReg.lean ====
section
/-! DEFINITION. The register ID_AA64MMFR3_EL1: its sixteen fields, the defined values of each, the legality of a
value of the whole register, and what each defined value reports (10_state.md R20 to R51). Every test is an exact
equality (R49): no larger value is read as "at least" a smaller one. -/

namespace Sys2Proof

/-- The sixteen 4-bit fields of the register, in the source's order from bit 63 down (R22). -/
inductive Field where
  | Spec_FPACC
  | ADERR
  | SDERR
  /-- Bits [51:48], unnamed: "Reserved, res0" (R32). -/
  | RES0
  | ANERR
  | SNERR
  | D128_2
  | D128
  | MEC
  | AIE
  | S2POE
  | S1POE
  | S2PIE
  | S1PIE
  | SCTLRX
  | TCRX
deriving DecidableEq, Repr

/-- What the pair (ADERR, SDERR) says of error exceptions on Device memory loads, and (ANERR, SNERR) of those on
Normal memory loads: the last column of the tables of R31 and R38. -/
inductive ErrorReport where
  /-- (0, 0): "the behavior is not described" (93_implementation_defined.md U6: no claim is made). -/
  | notDescribed
  /-- (1, 0): "Some error exceptions ... are taken asynchronously." Which ones is not stated (U10). -/
  | someAsynchronous
  /-- (0, 1): "All error exceptions ... are taken synchronously." -/
  | allSynchronous
  /-- (2, 2): the feature (FEAT_ADERR or FEAT_ANERR) and its two control bits are implemented. -/
  | controlsImplemented
deriving DecidableEq, Repr

/-- What Spec_FPACC says when FEAT_FPACCOMBINE is implemented (R24). -/
inductive SpecFpaccReport where
  /-- 0b0000: "The implementation does not disclose whether the speculative use of pointers ... is materially
  different" (93_implementation_defined.md U7: no claim is made). -/
  | notDisclosed
  /-- 0b0001: the speculative use "is not materially different in terms of the impact on cached
  microarchitectural state between passing and failing of the PAC Authentication" (R24, R25). -/
  | notMateriallyDifferent
deriving DecidableEq, Repr

namespace Field

/-- The field's lowest bit, the `lo` of its heading `bits [hi:lo]` (R22). -/
def lo : Field → Nat
  | .Spec_FPACC => 60
  | .ADERR => 56
  | .SDERR => 52
  | .RES0 => 48
  | .ANERR => 44
  | .SNERR => 40
  | .D128_2 => 36
  | .D128 => 32
  | .MEC => 28
  | .AIE => 24
  | .S2POE => 20
  | .S1POE => 16
  | .S2PIE => 12
  | .S1PIE => 8
  | .SCTLRX => 4
  | .TCRX => 0

/-- The values R22's table lists as defined. Spec_FPACC's second value is defined only when FEAT_FPACCOMBINE is
implemented: without it the field is RES0 (R23). -/
def definedValues (fpaccombine : Bool) : Field → List Nibble
  | .Spec_FPACC => if fpaccombine then [0b0000, 0b0001] else [0b0000]
  | .RES0 => [0b0000]
  | .ADERR => [0b0000, 0b0001, 0b0010]
  | .SDERR => [0b0000, 0b0001, 0b0010]
  | .ANERR => [0b0000, 0b0001, 0b0010]
  | .SNERR => [0b0000, 0b0001, 0b0010]
  | .D128_2 => [0b0000, 0b0001]
  | .D128 => [0b0000, 0b0001]
  | .MEC => [0b0000, 0b0001]
  | .AIE => [0b0000, 0b0001]
  | .S2POE => [0b0000, 0b0001]
  | .S1POE => [0b0000, 0b0001]
  | .S2PIE => [0b0000, 0b0001]
  | .S1PIE => [0b0000, 0b0001]
  | .SCTLRX => [0b0000, 0b0001]
  | .TCRX => [0b0000, 0b0001]

/-- All sixteen fields, from bit 63 down. -/
def all : List Field :=
  [.Spec_FPACC, .ADERR, .SDERR, .RES0, .ANERR, .SNERR, .D128_2, .D128,
   .MEC, .AIE, .S2POE, .S1POE, .S2PIE, .S1PIE, .SCTLRX, .TCRX]

end Field

namespace IdReg

/-- The field `F` of the value `v`: the slice `v[hi:lo]` (R12, R22). -/
def fieldOf (F : Field) (v : Word) : Nibble := v.extractLsb' F.lo 4

/-- The value with the given fields, from bit 63 down: the inverse of `fieldOf` (R22's layout). -/
def ofFields (n : Field → Nibble) : Word :=
  n .Spec_FPACC ++ n .ADERR ++ n .SDERR ++ n .RES0 ++ n .ANERR ++ n .SNERR ++ n .D128_2 ++ n .D128 ++
  n .MEC ++ n .AIE ++ n .S2POE ++ n .S1POE ++ n .S2PIE ++ n .S1PIE ++ n .SCTLRX ++ n .TCRX

/-- R22's formula: the sum of every field's unsigned value times two to the field's lowest bit. -/
def weightedSum (n : Field → Nibble) : Nat :=
  (Field.all.map fun F => (n F).toNat * 2 ^ F.lo).sum

/-- The legal pairs (asynchronous, synchronous) of error fields: R31 for (ADERR, SDERR), R38 for (ANERR, SNERR). -/
def errorPairLegal (rasv2 : Bool) (async sync : Nibble) : Bool :=
  (async == 0b0001 && sync == 0b0000) || (async == 0b0000 && sync == 0b0001) ||
  (async == 0b0010 && sync == 0b0010) || (async == 0b0000 && sync == 0b0000 && !rasv2)

/-- The field holds 0b0000 or 0b0001. -/
def zeroOrOne (F : Field) (v : Word) : Bool :=
  fieldOf F v == 0b0000 || fieldOf F v == 0b0001

/-- `LegalIDREG(v, FEAT_RASv2, FEAT_FPACCOMBINE)`, clause by clause in the order of R50. -/
def legal (v : Word) (rasv2 fpaccombine : Bool) : Bool :=
  (if fpaccombine then zeroOrOne .Spec_FPACC v else fieldOf .Spec_FPACC v == 0b0000) &&
  errorPairLegal rasv2 (fieldOf .ADERR v) (fieldOf .SDERR v) &&
  fieldOf .RES0 v == 0b0000 &&
  errorPairLegal rasv2 (fieldOf .ANERR v) (fieldOf .SNERR v) &&
  zeroOrOne .D128_2 v && zeroOrOne .D128 v && zeroOrOne .MEC v && zeroOrOne .AIE v &&
  zeroOrOne .S2POE v && zeroOrOne .S1POE v && zeroOrOne .S2PIE v && zeroOrOne .S1PIE v &&
  zeroOrOne .SCTLRX v && zeroOrOne .TCRX v

/-- What a pair of error fields reports (R31, R38). A pair outside the tables has no meaning: none (R49). -/
def errorReport (async sync : Nibble) : Option ErrorReport :=
  if async = 0b0000 ∧ sync = 0b0000 then some .notDescribed
  else if async = 0b0001 ∧ sync = 0b0000 then some .someAsynchronous
  else if async = 0b0000 ∧ sync = 0b0001 then some .allSynchronous
  else if async = 0b0010 ∧ sync = 0b0010 then some .controlsImplemented
  else none

/-- What the register says of error exceptions on Device memory loads (R26, R29, R31). -/
def deviceErrorReport (v : Word) : Option ErrorReport :=
  errorReport (fieldOf .ADERR v) (fieldOf .SDERR v)

/-- What the register says of error exceptions on Normal memory loads (R33, R35, R38). -/
def normalErrorReport (v : Word) : Option ErrorReport :=
  errorReport (fieldOf .ANERR v) (fieldOf .SNERR v)

/-- What Spec_FPACC reports: nothing without FEAT_FPACCOMBINE, where the field is RES0 (R23), and nothing for a
reserved value (R49). -/
def specFpaccReport (v : Word) (fpaccombine : Bool) : Option SpecFpaccReport :=
  if fpaccombine then
    if fieldOf .Spec_FPACC v = 0b0000 then some .notDisclosed
    else if fieldOf .Spec_FPACC v = 0b0001 then some .notMateriallyDifferent
    else none
  else none

/-- What a 0-or-1 field reports: 0b0000 "not supported" or "not implemented" (false), 0b0001 "supported" or
"implemented" (true), a reserved value nothing (R39 to R49). -/
def support (F : Field) (v : Word) : Option Bool :=
  if fieldOf F v = 0b0000 then some false
  else if fieldOf F v = 0b0001 then some true
  else none

/-- "128-bit Page Table Descriptor Extension at stage 2 is supported." (R39) -/
def d128AtStage2Supported (v : Word) : Option Bool := support .D128_2 v

/-- "128-bit Page Table Descriptor Extension is supported." No stage is named (R40). -/
def d128Supported (v : Word) : Option Bool := support .D128 v

/-- "Memory Encryption Contexts is supported for Realm physical address space." (R41) -/
def mecSupportedForRealm (v : Word) : Option Bool := support .MEC v

/-- "The Attribute Index Enhancement at Stage 1 is supported." (R42) -/
def attributeIndexAtStage1Supported (v : Word) : Option Bool := support .AIE v

/-- "Permission Overlay at Stage 2 is supported." (R43) -/
def permissionOverlayAtStage2Supported (v : Word) : Option Bool := support .S2POE v

/-- "Permission Overlay at Stage 1 is supported." (R44) -/
def permissionOverlayAtStage1Supported (v : Word) : Option Bool := support .S1POE v

/-- "Permission Indirection at Stage 2 is supported." (R45) -/
def permissionIndirectionAtStage2Supported (v : Word) : Option Bool := support .S2PIE v

/-- "Permission Indirection at Stage 1 is supported." (R46) -/
def permissionIndirectionAtStage1Supported (v : Word) : Option Bool := support .S1PIE v

/-- "SCTLR2_EL1, SCTLR2_EL2 and their associated trap controls are implemented." (R47, R59) -/
def sctlr2Implemented (v : Word) : Option Bool := support .SCTLRX v

/-- "TCR2_EL1, TCR2_EL2 and their associated trap controls are implemented." (R48, R59) -/
def tcr2Implemented (v : Word) : Option Bool := support .TCRX v

/-- "SCTLR2_ELx.EnADERR and HCRX_EL2.EnSDERR are implemented." (R26, R29, R59). Both rows say so at 0b0010. -/
def deviceErrorControlsImplemented (v : Word) : Bool :=
  fieldOf .ADERR v == 0b0010 || fieldOf .SDERR v == 0b0010

/-- "SCTLR2_ELx.EnANERR and HCRX_EL2.EnSNERR are implemented." (R33, R35, R59). -/
def normalErrorControlsImplemented (v : Word) : Bool :=
  fieldOf .ANERR v == 0b0010 || fieldOf .SNERR v == 0b0010

end IdReg

end Sys2Proof
end

