-- ==== Sys2Proof/Config.lean ====
section
/-! DEFINITION. What an implementation fixes: the parameters of 00_scope.md section 5, the legality a configuration
must have before any run (70_reset_and_hazards.md R162), and the values that the spec leaves open at reset
(10_state.md R62, R63). The opaque constants have no body: no proof can evaluate one, so whatever is proved holds
whatever they are. -/

namespace Sys2Proof

/-- The implementation parameters, with the spec's own names (R7, R8, R10). Any values, legal or not. -/
structure Parameters where
  /-- The value a successful read of ID_AA64MMFR3_EL1 returns (R7). -/
  IDREG : Word := 0
  /-- Read by the accessor at EL0 (R8, R111). -/
  FEAT_IDST : Bool := false
  /-- Read by the accessor at EL1 (R8, R114). -/
  FEAT_FGT : Bool := false
  /-- Constrains IDREG only (R8, R27, R30, R34, R36). -/
  FEAT_RASv2 : Bool := false
  /-- Constrains IDREG only (R8, R23). -/
  FEAT_FPACCOMBINE : Bool := false
  /-- `boolean IMPLEMENTATION_DEFINED "ID_AA64MMFR3_EL1 trapped by HCR_EL2.TID3"` (R10). -/
  TID3_TRAPS_WHEN_ZERO : Bool := false
deriving DecidableEq, Repr, Inhabited

/-- The legality premise of a configuration (R50, R162). -/
abbrev Parameters.isLegal (p : Parameters) : Bool :=
  IdReg.legal p.IDREG p.FEAT_RASv2 p.FEAT_FPACCOMBINE

/-- A configuration that may run: the parameters together with the proof that they are legal, so that an illegal one
cannot be built (R49, R50, R162; log 3). The default values only show that a legal configuration exists. -/
structure Config extends Parameters where
  legal : toParameters.isLegal = true := by decide
deriving DecidableEq, Repr, Inhabited

namespace Config

/-- The configuration of the implementation at hand: some legal one, the spec does not say which
(92_eei_decisions.md D1 to D3). DESIGN CHOICE, log 2: safe, since nothing but its legality is known. -/
opaque implementation : Config

/-- X0 to X30 after reset: "unspecified" (R62), and never defaulted (D12). DESIGN CHOICE, log 1. -/
opaque launchX : Vector Word 31

/-- `EL2Enabled` after reset: "unspecified" (R62), and never defaulted (R63). DESIGN CHOICE, log 1. -/
opaque launchEL2Enabled : Bool

/-- `HCR_EL2.TGE` after reset: "unspecified" (R62), and never defaulted (R63). DESIGN CHOICE, log 1. -/
opaque launchTGE : Bool

/-- `HCR_EL2.TID3` after reset: "unspecified" (R62), and never defaulted (R63). DESIGN CHOICE, log 1. -/
opaque launchTID3 : Bool

/-- The address at which a run starts when none is named: the `base` of every program of 95_test_vectors.md Part 3.
The spec gives no reset vector (R161). DESIGN CHOICE, log 1: unsafe. -/
def launchPc : Word := 0x80000

end Config

end Sys2Proof
end

