-- ==== Sys2Proof/Machine/Features.lean ====
section
/-! DEFINITION. The twelve FEAT_ names of 00_scope.md R4 and `IsFeatureImplemented` (R17): four are parameters of the
configuration (R8), eight are functions of IDREG (R9; 10_state.md R28, R37, R41 to R46). No implication between
features is assumed beyond these equations (91_not_in_source.md N17). -/

namespace Sys2Proof

/-- The features the source names (R4). D128_2, D128, SCTLRX and TCRX have no FEAT_ name. -/
inductive Feature where
  | FEAT_FPACCOMBINE
  | FEAT_RASv2
  | FEAT_ADERR
  | FEAT_ANERR
  | FEAT_MEC
  | FEAT_AIE
  | FEAT_S2POE
  | FEAT_S1POE
  | FEAT_S2PIE
  | FEAT_S1PIE
  | FEAT_IDST
  | FEAT_FGT
deriving DecidableEq, Repr

/-- `IsFeatureImplemented(FEAT_X)` (R17). The eight equations on IDREG are the spec's decision D22 (log 17). -/
def Parameters.isFeatureImplemented (p : Parameters) : Feature → Bool
  | .FEAT_FPACCOMBINE => p.FEAT_FPACCOMBINE
  | .FEAT_RASv2 => p.FEAT_RASv2
  | .FEAT_ADERR => IdReg.fieldOf .ADERR p.IDREG == 0b0010
  | .FEAT_ANERR => IdReg.fieldOf .ANERR p.IDREG == 0b0010
  | .FEAT_MEC => IdReg.fieldOf .MEC p.IDREG == 0b0001
  | .FEAT_AIE => IdReg.fieldOf .AIE p.IDREG == 0b0001
  | .FEAT_S2POE => IdReg.fieldOf .S2POE p.IDREG == 0b0001
  | .FEAT_S1POE => IdReg.fieldOf .S1POE p.IDREG == 0b0001
  | .FEAT_S2PIE => IdReg.fieldOf .S2PIE p.IDREG == 0b0001
  | .FEAT_S1PIE => IdReg.fieldOf .S1PIE p.IDREG == 0b0001
  | .FEAT_IDST => p.FEAT_IDST
  | .FEAT_FGT => p.FEAT_FGT

end Sys2Proof
end

