-- ==== Sys2Proof/Syntax.lean ====
section
/-! DEFINITION. The instruction set in scope: the one row of opcode_table.json (00_scope.md R3; 30_encoding.md R90, R94). -/

namespace Sys2Proof

/-- The instructions of the opcode table. -/
inductive Instr where
  /-- `MRS <Xt>, ID_AA64MMFR3_EL1` (40_mrs_id_aa64mmfr3.md R110). Its one operand is the destination register number
  `t`: 0 to 30 name X0 to X30, 31 names XZR (R94). The System register is no run-time operand (R94). -/
  | mrsIdAa64mmfr3El1 (t : Nat)
deriving DecidableEq, Repr

end Sys2Proof
end

