-- ==== Sys2Proof/WellFormed.lean ====
section
/-! DEFINITION. Which instruction terms stand for an instruction: the register number has the range the Rt field
gives it (30_encoding.md R94). There is nothing else to check: no immediate, shift, extension or condition (R95). -/

namespace Sys2Proof

/-- "`t = word[4:0]`, an unsigned number 0 to 31" (R94). -/
def Instr.wellFormed : Instr → Bool
  | .mrsIdAa64mmfr3El1 t => decide (t ≤ 31)

end Sys2Proof
end

