-- ==== Sys2Proof/Decode.lean ====
section
/-! DEFINITION. The A64 word of `MRS <Xt>, <System register>` (30_encoding.md R92, format SYSREG_READ), its byte order
in memory (20_memory.md R75), the decoder, total on any bytes and rejecting by name (R99), the encoder written from
the same table, and the assembler spelling (R103). PRESUMED with the spec: the source gives the five-number tuple
only, and the word layout is "from general knowledge, not in source" (R91, R92; log 8). -/

namespace Sys2Proof

/-- A location of the System register encoding space: five numbers of 2, 3, 4, 4 and 3 bits (R70). It is not
byte-addressed: one location is one whole register. -/
structure SysRegLocation where
  op0 : BitVec 2
  op1 : BitVec 3
  CRn : BitVec 4
  CRm : BitVec 4
  op2 : BitVec 3
deriving DecidableEq, Repr

/-- ID_AA64MMFR3_EL1 is the location (3, 0, 0, 7, 3) (R71, R90). -/
def idAa64mmfr3El1Location : SysRegLocation :=
  { op0 := 0b11, op1 := 0b000, CRn := 0b0000, CRm := 0b0111, op2 := 0b011 }

/-- The fields of the format SYSREG_READ, from bit 31 down (R92). -/
structure SysregFormat where
  /-- bits [31:22] -/
  fixed : BitVec 10
  /-- bit [21]: 1 = read (`MRS`), 0 = write (`MSR`) -/
  L : BitVec 1
  /-- bits [20:5] -/
  location : SysRegLocation
  /-- bits [4:0], the number `t` of `<Xt>` -/
  Rt : BitVec 5
deriving DecidableEq, Repr

/-- The value of the fixed bits [31:22] (R92). -/
def sysregFixed : BitVec 10 := 0b1101010100

/-- Cut a word into the fields of R92. -/
def splitWord (w : InstrWord) : SysregFormat :=
  { fixed := w.extractLsb' 22 10
    L := w.extractLsb' 21 1
    location :=
      { op0 := w.extractLsb' 19 2
        op1 := w.extractLsb' 16 3
        CRn := w.extractLsb' 12 4
        CRm := w.extractLsb' 8 4
        op2 := w.extractLsb' 5 3 }
    Rt := w.extractLsb' 0 5 }

/-- Put the fields of R92 together into a word. -/
def joinWord (f : SysregFormat) : InstrWord :=
  f.fixed ++ f.L ++ f.location.op0 ++ f.location.op1 ++ f.location.CRn ++ f.location.CRm ++ f.location.op2 ++ f.Rt

/-- Why bytes do not decode. -/
inductive DecodeReject where
  /-- Fewer than four bytes: every instruction in scope is one 32-bit word (R96). -/
  | tooFewBytes
  /-- "not in this spec" (R99): a word that does not match R93, the `MSR` write word among them (R98). -/
  | notInThisSpec (w : InstrWord)
deriving DecidableEq, Repr

/-- The instruction a word stands for: exactly the words with the fixed bits, L = 1 and the location of
ID_AA64MMFR3_EL1 (R92, R93); every other word is "not in this spec" (R99). -/
def decodeWord (w : InstrWord) : Except DecodeReject Instr :=
  if (splitWord w).fixed = sysregFixed ∧ (splitWord w).L = 1 ∧ (splitWord w).location = idAa64mmfr3El1Location then
    .ok (.mrsIdAa64mmfr3El1 (splitWord w).Rt.toNat)
  else
    .error (.notInThisSpec w)

/-- The word of four bytes, the byte at the lowest address first: little-endian (R75). -/
def wordOfBytes (b0 b1 b2 b3 : Byte) : InstrWord := b3 ++ b2 ++ b1 ++ b0

/-- The four bytes of a word at ascending addresses: little-endian (R75). -/
def bytesOfWord (w : InstrWord) : List Byte :=
  [w.extractLsb' 0 8, w.extractLsb' 8 8, w.extractLsb' 16 8, w.extractLsb' 24 8]

/-- The decoder: the instruction of the first four bytes and the bytes after it. There is one length (R96). -/
def decode : List Byte → Except DecodeReject (Instr × List Byte)
  | b0 :: b1 :: b2 :: b3 :: rest =>
    match decodeWord (wordOfBytes b0 b1 b2 b3) with
    | .ok i => .ok (i, rest)
    | .error r => .error r
  | _ => .error .tooFewBytes

/-- The word of an instruction (R92, R93). -/
def encodeWord : Instr → InstrWord
  | .mrsIdAa64mmfr3El1 t =>
    joinWord { fixed := sysregFixed, L := 1, location := idAa64mmfr3El1Location, Rt := BitVec.ofNat 5 t }

/-- The bytes of an instruction as the hardware stores them (R75). -/
def encode (i : Instr) : List Byte := bytesOfWord (encodeWord i)

/-- An instruction whose bits are `w`, numbered as opcode_table.json numbers them; the bits from `nbits` up are 0. -/
def tableWord (nbits w : Nat) : InstrWord := BitVec.ofNat 32 (w % 2 ^ nbits)

/-- The instruction the decoder reads from an instruction whose bits are `w`. -/
def decodeTableWord (nbits w : Nat) : Option Instr :=
  match decode (bytesOfWord (tableWord nbits w)) with
  | .ok (i, _) => some i
  | .error _ => none

/-- The name of the destination register: X0 to X30, or XZR for 31 (R103). -/
def registerName (t : Nat) : String := if t < 31 then "X" ++ toString t else "XZR"

/-- The generic spelling of a location, `S<op0>_<op1>_C<CRn>_C<CRm>_<op2>` (R103). -/
def genericName (l : SysRegLocation) : String :=
  "S" ++ toString l.op0.toNat ++ "_" ++ toString l.op1.toNat ++ "_C" ++ toString l.CRn.toNat ++
  "_C" ++ toString l.CRm.toNat ++ "_" ++ toString l.op2.toNat

/-- The assembler line of an instruction (R103). There is no alias and no pseudo-instruction (R104). -/
def assembly : Instr → String
  | .mrsIdAa64mmfr3El1 t => "MRS " ++ registerName t ++ ", ID_AA64MMFR3_EL1"

end Sys2Proof
end

