-- ==== Sys2Proof/Machine/State.lean ====
section
/-! DEFINITION. The state of the machine as plain data, the reasons a step can stop, and the state after reset
(10_state.md R52 to R63; 60_exceptions.md R130 to R135; 70_reset_and_hazards.md R160, R161, R168). -/

namespace Sys2Proof.Machine

/-- The four Exception levels, the values of `PSTATE.EL`. An enumeration: no bit encoding is given (R52, D19). -/
inductive EL where
  | EL0
  | EL1
  | EL2
  | EL3
deriving DecidableEq, Repr

/-- The program text: bytes by address, in one canonical form (`Memory.wf`). There is no data memory (R72). -/
abbrev Memory := List Host.Cell

/-- Everything the spec gives the machine. -/
structure State where
  /-- The configuration: constant for the life of the machine, changed by no step and by no reset (R61). It stands in
  State because a step is given a State alone (log 2). -/
  config : Config
  /-- The general registers X0 to X30 (R56). Number 31 is XZR and has no storage. -/
  x : Vector Word 31
  /-- The address of the current instruction (R57). -/
  pc : Word
  /-- `PSTATE.EL` (R52). -/
  el : EL
  /-- The answer of `EL2Enabled()` (R55). -/
  el2Enabled : Bool
  /-- `HCR_EL2.TGE == '1'` (R53). -/
  hcrTge : Bool
  /-- `HCR_EL2.TID3 == '1'` (R54). -/
  hcrTid3 : Bool
  /-- The program text, a fixed parameter of the run (R82, D10). -/
  text : Memory
deriving DecidableEq, Repr

/-- The exceptional outcomes of the accessor, each the end of the run, carrying the unchanged state (R135). The
exception entry is not in the source, so no handler runs (D5, D6; log 4). -/
inductive Fault where
  /-- `AArch64.SystemAccessTrap(targetEl, ec)` (R18, R131). Raised by `execMrsIdAa64mmfr3El1` at EL0 with FEAT_IDST
  and at EL1 under HCR_EL2.TID3. Safe: the faulted state is never final. -/
  | systemAccessTrap (targetEl : EL) (ec : Nat) (at_ : State)
  /-- `UNDEFINED` (R19, R132). Raised by `execMrsIdAa64mmfr3El1` at EL0 without FEAT_IDST. Safe: the faulted state is
  never final. -/
  | undefined (at_ : State)
deriving DecidableEq, Repr

/-- Why the machine gives no meaning. A refusal claims nothing about the chip. -/
inductive Refusal where
  /-- An instruction of the opcode table that has no meaning yet. Raised by no arm of `exec`. Safe. -/
  | notModelled (mnemonic : String)
  /-- The bytes at `pc` do not decode: "not in this spec" (R99). Raised by `step`. Safe. -/
  | undecodable (why : DecodeReject)
  /-- `pc` is no multiple of 4: "refused by the model rather than given a meaning" (R76). Raised by `step` and
  `launch`. Safe. -/
  | misalignedPc
  /-- A byte of the word at `pc` is not listed: "`pc` leaves the program text" (R168). Raised by `step`. Safe. -/
  | outsideProgramText
  /-- "A configuration that fails it is refused, not run." (R162). Raised by `launch`. Safe. -/
  | illegalConfiguration
deriving DecidableEq, Repr

/-- The machine right after reset. The spec gives no reset value (R62), and nothing is defaulted to zero (R63): the
configuration and every value that no fetch needs are opaque; `pc` and `el` are named so that a program can run
(log 1: unsafe). No program is loaded (log 10). -/
def State.reset : State :=
  { config := Config.implementation
    x := Config.launchX
    pc := Config.launchPc
    el := .EL3
    el2Enabled := Config.launchEL2Enabled
    hcrTge := Config.launchTGE
    hcrTid3 := Config.launchTID3
    text := [] }

end Sys2Proof.Machine
end

