-- ==== Sys2Proof/Machine/Flags.lean ====
section
/-! DEFINITION. The conditions the accessor computes. There is no flag, condition code or predicate in scope
(10_state.md R58), so no flag is written; the only computed conditions are `IsZero` (00_scope.md R14;
40_mrs_id_aa64mmfr3.md R122) and clause (b) of R114. -/

namespace Sys2Proof.Machine

/-- `IsZero(x)`: "every bit of `x` is 0" (R14). Reserved bits count like any other (R122). -/
def isZero (v : Word) : Bool := v == 0

/-- `IsFeatureImplemented(FEAT_FGT) || !IsZero(ID_AA64MMFR3_EL1) || boolean IMPLEMENTATION_DEFINED "..."`: whether
HCR_EL2.TID3 covers this encoding at all, clause (b) of R114 (R115, R139). -/
def tid3CoversEncoding (c : Config) : Bool :=
  c.isFeatureImplemented .FEAT_FGT || !isZero c.IDREG || c.TID3_TRAPS_WHEN_ZERO

end Sys2Proof.Machine
end

