-- ==== Sys2Proof/Machine/Operands.lean ====
section
/-! DEFINITION. The one operand form of the instruction set, the general register `<Xt>` (30_encoding.md R94), and the
one home of the general registers: `x[i]` and `x[i] <- v` of 00_scope.md R15. -/

namespace Sys2Proof.Machine

/-- `x[i] <- v`: X0 to X30 hold whatever was last written, and a write to number 31, the zero register, is discarded
(R15, R16, R56; log 5). A number above 31 is no register and no word encodes it: nothing is written (log 6). -/
def State.writeX (s : State) (i : Nat) (v : Word) : State :=
  if h : i < 31 then { s with x := s.x.set i v h } else s

/-- `x[i]`: the value of X0 to X30, and zero for the zero register (R15, R56; log 5). No instruction reads a general
register (R110): claims look at registers through this. -/
def State.readX (s : State) (i : Nat) : Word :=
  if h : i < 31 then s.x[i] else 0

end Sys2Proof.Machine
end

