-- ==== Sys2Proof/Machine/Ops.lean ====
section
/-! DEFINITION. The shared operations: bytes of the program text, fetching an instruction's bytes, moving the pc,
completing a read, and raising an exceptional outcome. -/

namespace Sys2Proof.Machine

/-- The canonical form of the program text: addresses strictly rising, all inside the 64-bit address space of `pc`
(R57). An unlisted address reads as no value, so no listed byte equals what an unlisted one reads as. -/
abbrev Memory.wf (m : Memory) : Prop :=
  m.Pairwise (fun c d => c.1 < d.1) ∧ ∀ c ∈ m, c.1 < 2 ^ 64

/-- The byte at an address, or no value: the address is not in the program text (R168). -/
def Memory.readByte : Memory → Nat → Option Byte
  | [], _ => none
  | (k, b) :: rest, a => if a = k then some b else Memory.readByte rest a

/-- Put a byte at an address, keeping the addresses rising. Only a launch and `withFetchWord` place bytes: no
instruction stores (R82). -/
def Memory.writeByte : Memory → Nat → Byte → Memory
  | [], a, v => [(a, v)]
  | (k, b) :: rest, a, v =>
    if a < k then (a, v) :: (k, b) :: rest
    else if a = k then (k, v) :: rest
    else (k, b) :: Memory.writeByte rest a v

/-- Put bytes at ascending addresses from `a`, modulo 2^64. -/
def Memory.writeBytes (m : Memory) (a : Word) : List Byte → Memory
  | [] => m
  | b :: rest => Memory.writeBytes (m.writeByte a.toNat b) (a + 1) rest

/-- Put instruction words at `a`, `a + 4`, ..., each little-endian (R75). -/
def Memory.loadWords (m : Memory) (a : Word) : List InstrWord → Memory
  | [] => m
  | w :: rest => Memory.loadWords (m.writeBytes a (bytesOfWord w)) (a + 4) rest

/-- "`pc` is a multiple of 4" (R57, R76). -/
def isAligned (a : Word) : Bool := a.extractLsb' 0 2 == 0

/-- The nearest multiple of 4 at or below an address. -/
def alignDown (a : Word) : Word := a &&& ~~~3#64

/-- The four bytes of the instruction word at `pc`. A misaligned `pc` is refused (R76, D9), and so is a `pc` that has
left the program text (R168). -/
def State.fetch (s : State) : Except Refusal (List Byte) :=
  if isAligned s.pc then
    match s.text.readByte s.pc.toNat, s.text.readByte (s.pc + 1).toNat,
        s.text.readByte (s.pc + 2).toNat, s.text.readByte (s.pc + 3).toNat with
    | some b0, some b1, some b2, some b3 => .ok [b0, b1, b2, b3]
    | _, _, _, _ => .error .outsideProgramText
  else
    .error .misalignedPc

/-- `pc <- pc + 4`, modulo 2^64 (R57, R120; log 7). -/
def State.advancePc (s : State) : State := { s with pc := s.pc + 4 }

/-- `raise <Exception>(info)`: "end the instruction with the named exceptional outcome; no later line of the rule
runs" (R15). The shared operation of every exceptional outcome: nothing is written (R133), the outcome carries the
unchanged state, and the run ends there (R135; log 4). There is no return from it (R136). -/
def raise (outcome : State → Fault) (s : State) : Host.Outcome State Fault Refusal := .fault (outcome s)

/-- The number the source passes to `AArch64.SystemAccessTrap` in all three calls (R131). -/
def systemAccessTrapEc : Nat := 0x18

/-- A successful read of ID_AA64MMFR3_EL1: `x[t] <- IDREG; pc <- pc + 4` (R110). All 64 bits move at once, unchanged
(R73, R122). -/
def completeRead (t : Nat) (s : State) : Host.Outcome State Fault Refusal :=
  .next (s.writeX t s.config.IDREG).advancePc

end Sys2Proof.Machine
end

