-- ==== Sys2Proof/Machine/SysregRead.lean ====
section
/-! DEFINITION. The family "System register read" and its one member in scope (40_mrs_id_aa64mmfr3.md R110). -/

namespace Sys2Proof.Machine

/-- `MRS <Xt>, ID_AA64MMFR3_EL1`, R110's pseudocode line by line, in the parse 90_conflicts.md C2 and C3 fix (log 22).
The four tests of `EL` are exhaustive; `&&` and `||` decide left to right (R14; log 14). -/
def execMrsIdAa64mmfr3El1 (t : Nat) (s : State) : Host.Outcome State Fault Refusal :=
  match s.el with
  | .EL0 =>
    if s.config.isFeatureImplemented .FEAT_IDST then
      if s.el2Enabled && s.hcrTge then
        raise (.systemAccessTrap .EL2 systemAccessTrapEc) s
      else
        raise (.systemAccessTrap .EL1 systemAccessTrapEc) s
    else
      raise .undefined s
  | .EL1 =>
    if s.el2Enabled && tid3CoversEncoding s.config && s.hcrTid3 then
      raise (.systemAccessTrap .EL2 systemAccessTrapEc) s
    else
      completeRead t s
  | .EL2 => completeRead t s
  | .EL3 => completeRead t s

end Sys2Proof.Machine
end

