-- ==== Sys2Proof/Machine/Dispatch.lean ====
section
/-! DEFINITION. The meaning of each instruction, one arm per constructor. -/

namespace Sys2Proof.Machine

def exec (i : Instr) (s : State) : Host.Outcome State Fault Refusal :=
  match i with
  | .mrsIdAa64mmfr3El1 t => Sys2Proof.Machine.execMrsIdAa64mmfr3El1 t s

end Sys2Proof.Machine
end

