-- ==== Sys2Proof/Machine/Step.lean ====
section
/-! DEFINITION. One step: fetch the four bytes at `pc`, decode them, execute. It only calls what stands in Ops.lean,
Decode.lean and Dispatch.lean. -/

namespace Sys2Proof.Machine

/-- One atomic step (40_mrs_id_aa64mmfr3.md R125): the instruction at `pc` runs (R120), or the machine refuses
(30_encoding.md R99; 70_reset_and_hazards.md R168). Nothing preempts it (60_exceptions.md R140; log 12). -/
def step (s : State) : Host.Outcome State Fault Refusal :=
  match s.fetch with
  | .error r => .refused r
  | .ok bytes =>
    match decode bytes with
    | .error why => .refused (.undecodable why)
    | .ok (i, _) => exec i s

/-- `s` with the instruction whose bits are `w` stored where `step` fetches its next instruction. A `pc` that is no
multiple of 4 is aligned, since no word can be fetched at it (R76); an aligned one stays. It stands for the loading of
a program from outside the machine (log 10). -/
def State.withFetchWord (s : State) (nbits w : Nat) : State :=
  { s with
    pc := alignDown s.pc
    text := s.text.writeBytes (alignDown s.pc) (bytesOfWord (tableWord nbits w)) }

end Sys2Proof.Machine
end

