-- ==== Sys2Proof/Machine/Launch.lean ====
section
/-! DEFINITION. How a run starts: "from a launch state that names `pc`, `PSTATE.EL`, `EL2Enabled` and, where consulted,
`HCR_EL2.TGE` and `HCR_EL2.TID3` explicitly" (70_reset_and_hazards.md R161; 10_state.md R63). -/

namespace Sys2Proof.Machine

/-- Everything a launch names: the implementation's parameters, the launch premises of R62, and the program as
instruction words laid out from `pc` upward (92_eei_decisions.md D10). -/
structure Launch where
  parameters : Parameters
  x : Vector Word 31
  pc : Word
  el : EL
  el2Enabled : Bool
  hcrTge : Bool
  hcrTid3 : Bool
  program : List InstrWord
deriving DecidableEq, Repr

/-- The launch state. A configuration that is not legal is "refused, not run" (R162, R49, D14), and so is a launch
with a misaligned `pc` (R76, D9). -/
def launch (l : Launch) : Host.Outcome State Fault Refusal :=
  if h : l.parameters.isLegal = true then
    if isAligned l.pc then
      .next
        { config := { toParameters := l.parameters, legal := h }
          x := l.x
          pc := l.pc
          el := l.el
          el2Enabled := l.el2Enabled
          hcrTge := l.hcrTge
          hcrTid3 := l.hcrTid3
          text := Memory.loadWords [] l.pc l.program }
    else
      .refused .misalignedPc
  else
    .refused .illegalConfiguration

end Sys2Proof.Machine
end

