-- ==== Sys2Proof/Safety.lean ====
section
/-! DEFINITION. The terms that claims use: how an outcome is classed, the state invariant, what stays constant in a
run, the decision table of 40_mrs_id_aa64mmfr3.md R118 as data, and the end of a run (70_reset_and_hazards.md R168). -/

namespace Sys2Proof.Machine

/-- The class of an outcome: the last column of R118's table, and the refusals. -/
inductive Verdict where
  | completes
  | systemAccessTrap (targetEl : EL) (ec : Nat)
  | undefined
  | refuses (why : Refusal)
deriving DecidableEq, Repr

/-- The class of an outcome. -/
def verdict : Host.Outcome State Fault Refusal → Verdict
  | .next _ => .completes
  | .fault (.systemAccessTrap el ec _) => .systemAccessTrap el ec
  | .fault (.undefined _) => .undefined
  | .refused r => .refuses r

/-- The state a fault carries (R135). -/
def Fault.state : Fault → State
  | .systemAccessTrap _ _ s => s
  | .undefined s => s

/-- The invariant of a run: the `pc` is a multiple of 4 (R57, R76) and the program text is canonical. -/
structure Inv (s : State) : Prop where
  aligned : isAligned s.pc = true
  textWf : s.text.wf

/-- What no instruction of the model changes: the configuration (R61), `PSTATE.EL`, `EL2Enabled` and the two fields
of HCR_EL2 (R119, R142), and every byte of the program text (R82). -/
structure SameOutside (s s' : State) : Prop where
  config : s'.config = s.config
  el : s'.el = s.el
  el2Enabled : s'.el2Enabled = s.el2Enabled
  hcrTge : s'.hcrTge = s.hcrTge
  hcrTid3 : s'.hcrTid3 = s.hcrTid3
  text : ∀ a : Nat, s'.text.readByte a = s.text.readByte a

/-- The state after a read that succeeds, written out from R110 and R15: `x[t] <- IDREG`, discarded for the zero
register, and `pc <- pc + 4`. Claims compare the model's own outcome with it. -/
def afterRead (t : Nat) (s : State) : State :=
  { s with
    x := if h : t < 31 then s.x.set t s.config.IDREG h else s.x
    pc := s.pc + 4 }

/-- Clause (b) of R114, written out: at least one of `FEAT_FGT`, `IDREG != 0`, `TID3_TRAPS_WHEN_ZERO`. -/
def ClauseB (c : Config) : Prop :=
  c.FEAT_FGT = true ∨ c.IDREG ≠ 0 ∨ c.TID3_TRAPS_WHEN_ZERO = true

/-- The configuration with another value of the IMPLEMENTATION DEFINED Boolean (R10). It constrains nothing, so the
configuration stays legal. -/
def withTrapsWhenZero (b : Bool) (s : State) : State :=
  { s with config := { s.config with TID3_TRAPS_WHEN_ZERO := b, legal := s.config.legal } }

/-- A run of `n` completed instructions from `s` to `s'`: the launch's own end of a run, R168 (c). A run that meets
an exceptional outcome or a refusal on the way completes nothing (R168 (a), (b)). -/
def RunsTo : Nat → State → State → Prop
  | 0, s, s' => s' = s
  | n + 1, s, s' => ∃ u, step s = .next u ∧ RunsTo n u s'

/-- A row of R118's table: `none` means that the input is not consulted on the row. -/
structure DecisionRow where
  el : EL
  featIdst : Option Bool
  el2Enabled : Option Bool
  tge : Option Bool
  /-- `FEAT_FGT || IDREG != 0 || TID3_TRAPS_WHEN_ZERO`, the table's column `b`. -/
  b : Option Bool
  tid3 : Option Bool
  outcome : Verdict
deriving DecidableEq, Repr

/-- R118's ten rows, in order. -/
def decisionTable : List DecisionRow :=
  [⟨.EL0, some false, none, none, none, none, .undefined⟩,
   ⟨.EL0, some true, some false, none, none, none, .systemAccessTrap .EL1 0x18⟩,
   ⟨.EL0, some true, some true, some false, none, none, .systemAccessTrap .EL1 0x18⟩,
   ⟨.EL0, some true, some true, some true, none, none, .systemAccessTrap .EL2 0x18⟩,
   ⟨.EL1, none, some false, none, none, none, .completes⟩,
   ⟨.EL1, none, some true, none, some false, none, .completes⟩,
   ⟨.EL1, none, some true, none, some true, some false, .completes⟩,
   ⟨.EL1, none, some true, none, some true, some true, .systemAccessTrap .EL2 0x18⟩,
   ⟨.EL2, none, none, none, none, none, .completes⟩,
   ⟨.EL3, none, none, none, none, none, .completes⟩]

/-- A consulted input has the row's value. -/
def agrees (want : Option Bool) (have_ : Bool) : Bool :=
  match want with
  | none => true
  | some b => b == have_

/-- The row applies in the state. The disjunction `b` is written out from R118, not taken from the model's step. -/
def DecisionRow.applies (r : DecisionRow) (s : State) : Bool :=
  r.el == s.el && agrees r.featIdst s.config.FEAT_IDST && agrees r.el2Enabled s.el2Enabled &&
  agrees r.tge s.hcrTge &&
  agrees r.b (s.config.FEAT_FGT || s.config.IDREG != 0 || s.config.TID3_TRAPS_WHEN_ZERO) &&
  agrees r.tid3 s.hcrTid3

end Sys2Proof.Machine
end

