-- ==== Sys2Proof/Certificates/Slice0/Obligations.lean ====
section
/-! DEFINITION. The statements for the provers. Each docstring names the rules of spec/ a statement rests on; where a
rule or a clause is the spec's own decision or general knowledge (marked so in the rule) the docstring says so, and
OBLIGATIONS.json lists the statement as derived. -/

open Sys2Proof Sys2Proof.Machine

/-! ## Encoding -/

/-- Decode and encode agree, whatever bytes follow (30_encoding.md R92 to R96; the word layout is the spec's general
knowledge, log 8). -/
def Obligations.DecodeOfEncodeGivesInstructionBack : Prop :=
  ∀ (i : Instr) (rest : List Byte), i.wellFormed = true → decode (encode i ++ rest) = .ok (i, rest)

/-- What decodes is the encoding of a well-formed instruction: no two byte strings of an instruction, and every bit of
the word is read (30_encoding.md R93; log 8). -/
def Obligations.EncodeOfDecodeGivesBytesBack : Prop :=
  ∀ (bytes rest : List Byte) (i : Instr), decode bytes = .ok (i, rest) →
    i.wellFormed = true ∧ encode i ++ rest = bytes

/-- R93: the word is 0xD5380760 + t, match 0xD5380760 under mask 0xFFFFFFE0, for exactly the words with t in 0 to 31
(R93 is marked derived, on the general knowledge of R92; log 8). -/
def Obligations.DecoderAcceptsExactlyTheTableRow : Prop :=
  (∀ t : Nat, t ≤ 31 → encodeWord (.mrsIdAa64mmfr3El1 t) = 0xD5380760 + BitVec.ofNat 32 t) ∧
  (∀ w : InstrWord, (∃ i, decodeWord w = .ok i) ↔ w &&& 0xFFFFFFE0 = 0xD5380760) ∧
  (∀ (w : InstrWord) (t : Nat), decodeWord w = .ok (.mrsIdAa64mmfr3El1 t) ↔
    t ≤ 31 ∧ w = 0xD5380760 + BitVec.ofNat 32 t)

/-- R90, R92: a word decodes exactly when bits [31:22] are 0b1101010100, L is 1, and the five numbers are
(0b11, 0b000, 0b0000, 0b0111, 0b011), in the positions R92 gives them (general knowledge; log 8); Rt is free. -/
def Obligations.DecoderReadsTheFormatFields : Prop :=
  ∀ w : InstrWord, (∃ i, decodeWord w = .ok i) ↔
    w.toNat / 2 ^ 22 = 0b1101010100 ∧ w.toNat / 2 ^ 21 % 2 = 1 ∧ w.toNat / 2 ^ 19 % 4 = 0b11 ∧
    w.toNat / 2 ^ 16 % 8 = 0b000 ∧ w.toNat / 2 ^ 12 % 16 = 0b0000 ∧ w.toNat / 2 ^ 8 % 16 = 0b0111 ∧
    w.toNat / 2 ^ 5 % 8 = 0b011

/-- A few words of 95_test_vectors.md 2a, as words and as bytes at ascending addresses (R92, R75; logs 8 and 9). -/
def Obligations.SampleWordsDecodeAsTabulated : Prop :=
  decode [0x60, 0x07, 0x38, 0xD5] = .ok (.mrsIdAa64mmfr3El1 0, []) ∧
  decode [0x70, 0x07, 0x38, 0xD5] = .ok (.mrsIdAa64mmfr3El1 16, []) ∧
  decode [0x7F, 0x07, 0x38, 0xD5] = .ok (.mrsIdAa64mmfr3El1 31, []) ∧
  decode [0x40, 0x07, 0x38, 0xD5] = .error (.notInThisSpec 0xD5380740) ∧
  decode [0x80, 0x07, 0x38, 0xD5] = .error (.notInThisSpec 0xD5380780)

/-- R98: the write direction, 0xD5180760 + t, is refused "like any other word outside the table" (decision D13; the
word itself is general knowledge; log 18). -/
def Obligations.WriteDirectionIsNotInThisSpec : Prop :=
  ∀ t : Nat, t ≤ 31 →
    decodeWord (0xD5180760 + BitVec.ofNat 32 t) = .error (.notInThisSpec (0xD5180760 + BitVec.ofNat 32 t))

/-! ## Fetch and step -/

/-- When the four bytes at an aligned `pc` decode, the step is `exec` of that instruction in that state: `exec` itself
moves the `pc` (R57, R120), the step adds nothing (R125; decisions D8, D25). -/
def Obligations.StepRunsTheDecodedInstruction : Prop :=
  ∀ (s : State) (b0 b1 b2 b3 : Byte) (i : Instr) (rest : List Byte),
    isAligned s.pc = true →
    s.text.readByte s.pc.toNat = some b0 → s.text.readByte (s.pc + 1).toNat = some b1 →
    s.text.readByte (s.pc + 2).toNat = some b2 → s.text.readByte (s.pc + 3).toNat = some b3 →
    decode [b0, b1, b2, b3] = .ok (i, rest) →
    step s = exec i s

/-- R75: the byte at the lowest address holds bits [7:0] of the word. So a step reads the word
`b3 : b2 : b1 : b0` and, when that word is the row's with register number t, runs the row's instruction (decision D9,
general knowledge; log 9). -/
def Obligations.InstructionWordsAreLittleEndian : Prop :=
  ∀ (s : State) (b0 b1 b2 b3 : Byte) (t : Nat),
    isAligned s.pc = true →
    s.text.readByte s.pc.toNat = some b0 → s.text.readByte (s.pc + 1).toNat = some b1 →
    s.text.readByte (s.pc + 2).toNat = some b2 → s.text.readByte (s.pc + 3).toNat = some b3 →
    t ≤ 31 →
    b0.toNat + 2 ^ 8 * b1.toNat + 2 ^ 16 * b2.toNat + 2 ^ 24 * b3.toNat = 0xD5380760 + t →
    step s = exec (.mrsIdAa64mmfr3El1 t) s

/-- R99: on a word that does not match R93 the machine refuses to step (decision D27; log 18). -/
def Obligations.StepRefusesWordsOutsideTheTable : Prop :=
  ∀ (s : State) (b0 b1 b2 b3 : Byte),
    isAligned s.pc = true →
    s.text.readByte s.pc.toNat = some b0 → s.text.readByte (s.pc + 1).toNat = some b1 →
    s.text.readByte (s.pc + 2).toNat = some b2 → s.text.readByte (s.pc + 3).toNat = some b3 →
    (b3 ++ b2 ++ b1 ++ b0 : InstrWord) &&& 0xFFFFFFE0 ≠ 0xD5380760 →
    step s = .refused (.undecodable (.notInThisSpec (b3 ++ b2 ++ b1 ++ b0)))

/-- R76: a `pc` that is no multiple of 4 is refused (decision D9, general knowledge; log 9). -/
def Obligations.StepRefusesMisalignedPc : Prop :=
  ∀ s : State, s.pc.toNat % 4 ≠ 0 → step s = .refused .misalignedPc

/-- R168 (b): a step whose `pc` has left the program text is refused (decisions D10, D27; log 10). -/
def Obligations.StepRefusesOutsideTheProgramText : Prop :=
  ∀ (s : State) (k : Nat), s.pc.toNat % 4 = 0 → k < 4 →
    s.text.readByte (s.pc + BitVec.ofNat 64 k).toNat = none →
    step s = .refused .outsideProgramText

/-- Every way a step can stop: one of the three exceptional outcomes, or a refusal by one of three names. In
particular no instruction is left without a meaning (R130, R168; decisions D5, D6, D27). -/
def Obligations.StepStopsOnlyInNamedWays : Prop :=
  ∀ s : State,
    (∀ f, step s = .fault f →
      f = .systemAccessTrap .EL1 0x18 s ∨ f = .systemAccessTrap .EL2 0x18 s ∨ f = .undefined s) ∧
    (∀ r, step s = .refused r →
      r = .misalignedPc ∨ r = .outsideProgramText ∨ ∃ w, r = .undecodable (.notInThisSpec w))

/-- An instruction of the row placed where the step fetches is the one the next step runs: the loading of a program
from outside (log 10, the model's own). -/
def Obligations.StepRunsThePlacedWord : Prop :=
  ∀ (s : State) (t : Nat), t ≤ 31 →
    step (s.withFetchWord 32 (0xD5380760 + t)) =
      exec (.mrsIdAa64mmfr3El1 t) (s.withFetchWord 32 (0xD5380760 + t))

/-! ## The accessor, branch by branch -/

/-- R111. At EL0 with FEAT_IDST the read traps with 0x18, to EL2 when `EL2Enabled` and `HCR_EL2.TGE == '1'`, otherwise
to EL1, whatever HCR_EL2.TID3, FEAT_FGT, TID3_TRAPS_WHEN_ZERO and IDREG are. -/
def Obligations.ReadAtEL0WithIdstTraps : Prop :=
  ∀ (s : State) (t : Nat), t ≤ 31 → s.el = .EL0 → s.config.FEAT_IDST = true →
    ((s.el2Enabled = true ∧ s.hcrTge = true) →
      exec (.mrsIdAa64mmfr3El1 t) s = .fault (.systemAccessTrap .EL2 0x18 s)) ∧
    (¬(s.el2Enabled = true ∧ s.hcrTge = true) →
      exec (.mrsIdAa64mmfr3El1 t) s = .fault (.systemAccessTrap .EL1 0x18 s))

/-- R112. At EL0 without FEAT_IDST the read is UNDEFINED, whatever the rest of the state. -/
def Obligations.ReadAtEL0WithoutIdstIsUndefined : Prop :=
  ∀ (s : State) (t : Nat), t ≤ 31 → s.el = .EL0 → s.config.FEAT_IDST = false →
    exec (.mrsIdAa64mmfr3El1 t) s = .fault (.undefined s)

/-- R114. At EL1 the read traps to EL2 exactly when (a), (b) and (c) hold; otherwise it writes IDREG to X[t] and
advances pc. HCR_EL2.TGE and FEAT_IDST play no part. -/
def Obligations.ReadAtEL1TrapsExactlyUnderTid3 : Prop :=
  ∀ (s : State) (t : Nat), t ≤ 31 → s.el = .EL1 →
    ((s.el2Enabled = true ∧ ClauseB s.config ∧ s.hcrTid3 = true) →
      exec (.mrsIdAa64mmfr3El1 t) s = .fault (.systemAccessTrap .EL2 0x18 s)) ∧
    (¬(s.el2Enabled = true ∧ ClauseB s.config ∧ s.hcrTid3 = true) →
      exec (.mrsIdAa64mmfr3El1 t) s = .next (afterRead t s))

/-- R116. At EL2 the read always succeeds; no state other than PSTATE.EL is consulted. -/
def Obligations.ReadAtEL2AlwaysSucceeds : Prop :=
  ∀ (s : State) (t : Nat), t ≤ 31 → s.el = .EL2 →
    exec (.mrsIdAa64mmfr3El1 t) s = .next (afterRead t s)

/-- R117. At EL3 the read always succeeds; no state other than PSTATE.EL is consulted. -/
def Obligations.ReadAtEL3AlwaysSucceeds : Prop :=
  ∀ (s : State) (t : Nat), t ≤ 31 → s.el = .EL3 →
    exec (.mrsIdAa64mmfr3El1 t) s = .next (afterRead t s)

/-- What a read that completes leaves, said of the registers one by one: X[t] holds IDREG, and pc is 4 further,
modulo 2^64, so that the last word of the address space is followed by address 0 (R57, R122, W5; the pc is the spec's
decision D8, log 7). -/
def Obligations.CompletedReadDeliversIdregAndAdvancesPc : Prop :=
  ∀ (s s' : State) (t : Nat), t < 31 → exec (.mrsIdAa64mmfr3El1 t) s = .next s' →
    s'.readX t = s.config.IDREG ∧ s'.pc.toNat = (s.pc.toNat + 4) % 2 ^ 64

/-- R113 (marked derived): no step and no run of one step or more completes at EL0. -/
def Obligations.NothingCompletesAtEL0 : Prop :=
  (∀ s s' : State, s.el = .EL0 → step s ≠ .next s') ∧
  (∀ (n : Nat) (s s' : State), s.el = .EL0 → RunsTo n s s' → n = 0)

/-- R118 (marked derived): the ten rows are exhaustive and disjoint, and the outcome is the applying row's. -/
def Obligations.OutcomeFollowsTheDecisionTable : Prop :=
  ∀ (s : State) (t : Nat), t ≤ 31 →
    ∃ r, decisionTable.filter (fun r => r.applies s) = [r] ∧ verdict (exec (.mrsIdAa64mmfr3El1 t) s) = r.outcome

/-- R115 (marked derived): the IMPLEMENTATION DEFINED Boolean decides the outcome in exactly one situation, and there
the read traps to EL2 if it is true and otherwise returns zero. -/
def Obligations.ImplementationDefinedBooleanDecidesOneSituation : Prop :=
  ∀ (s : State) (t : Nat), t ≤ 31 →
    (verdict (exec (.mrsIdAa64mmfr3El1 t) (withTrapsWhenZero true s)) ≠
        verdict (exec (.mrsIdAa64mmfr3El1 t) (withTrapsWhenZero false s)) ↔
      s.el = .EL1 ∧ s.el2Enabled = true ∧ s.hcrTid3 = true ∧ s.config.FEAT_FGT = false ∧ s.config.IDREG = 0) ∧
    (s.el = .EL1 ∧ s.el2Enabled = true ∧ s.hcrTid3 = true ∧ s.config.FEAT_FGT = false ∧ s.config.IDREG = 0 →
      exec (.mrsIdAa64mmfr3El1 t) (withTrapsWhenZero true s) =
          .fault (.systemAccessTrap .EL2 0x18 (withTrapsWhenZero true s)) ∧
        exec (.mrsIdAa64mmfr3El1 t) (withTrapsWhenZero false s) =
          .next (afterRead t (withTrapsWhenZero false s)) ∧
        (t < 31 → (afterRead t (withTrapsWhenZero false s)).readX t = 0))

/-- Isolation at EL0 (R111, R112, R113): two machines that agree on FEAT_IDST, `EL2Enabled` and HCR_EL2.TGE, and may
differ in everything else, the register's value and the general registers among it, give the same outcome at EL0. So
EL0 learns nothing of the register. -/
def Obligations.OutcomeAtEL0DoesNotDependOnTheRegister : Prop :=
  ∀ (s u : State) (t v : Nat), s.el = .EL0 → u.el = .EL0 →
    s.config.FEAT_IDST = u.config.FEAT_IDST → s.el2Enabled = u.el2Enabled → s.hcrTge = u.hcrTge →
    verdict (exec (.mrsIdAa64mmfr3El1 t) s) = verdict (exec (.mrsIdAa64mmfr3El1 v) u)

/-- R137. HCR_EL2.TGE routes the EL0 trap, to EL2 if `EL2Enabled` and TGE, and to EL1 otherwise; it does not decide
whether the access traps; and it is not consulted at EL1, EL2 or EL3. -/
def Obligations.TgeOnlyRoutesTheEL0Trap : Prop :=
  ∀ (s : State) (t : Nat) (b : Bool), t ≤ 31 →
    (s.el = .EL0 → s.config.FEAT_IDST = true →
      exec (.mrsIdAa64mmfr3El1 t) s =
        .fault (.systemAccessTrap (if s.el2Enabled = true ∧ s.hcrTge = true then .EL2 else .EL1) 0x18 s)) ∧
    ((∃ el, verdict (exec (.mrsIdAa64mmfr3El1 t) { s with hcrTge := b }) = .systemAccessTrap el 0x18) ↔
      ∃ el, verdict (exec (.mrsIdAa64mmfr3El1 t) s) = .systemAccessTrap el 0x18) ∧
    (s.el ≠ .EL0 →
      verdict (exec (.mrsIdAa64mmfr3El1 t) { s with hcrTge := b }) = verdict (exec (.mrsIdAa64mmfr3El1 t) s) ∧
      ∀ s', exec (.mrsIdAa64mmfr3El1 t) s = .next s' →
        exec (.mrsIdAa64mmfr3El1 t) { s with hcrTge := b } = .next { s' with hcrTge := b })

/-- R138. With `EL2Enabled` and HCR_EL2.TID3 an EL1 read traps to EL2 provided clause (b) of R114 holds;
HCR_EL2.TID3 does not affect reads at EL0, EL2 or EL3. -/
def Obligations.Tid3TrapsOnlyReadsAtEL1 : Prop :=
  ∀ (s : State) (t : Nat) (b : Bool), t ≤ 31 →
    (s.el = .EL1 → s.el2Enabled = true → s.hcrTid3 = true → ClauseB s.config →
      exec (.mrsIdAa64mmfr3El1 t) s = .fault (.systemAccessTrap .EL2 0x18 s)) ∧
    (s.el ≠ .EL1 →
      verdict (exec (.mrsIdAa64mmfr3El1 t) { s with hcrTid3 := b }) = verdict (exec (.mrsIdAa64mmfr3El1 t) s) ∧
      ∀ s', exec (.mrsIdAa64mmfr3El1 t) s = .next s' →
        exec (.mrsIdAa64mmfr3El1 t) { s with hcrTid3 := b } = .next { s' with hcrTid3 := b })

/-- R139. Clause (b) decides whether TID3 covers this encoding at all: it is true with FEAT_FGT, true when the register
is non-zero, and otherwise at the implementation's choice. FEAT_FGT acts only through it: unless EL1, `EL2Enabled`,
TID3, a zero register and a false choice come together, two machines that differ in FEAT_FGT give the same outcome. -/
def Obligations.FgtActsOnlyThroughTheTid3Clause : Prop :=
  ∀ (s u : State) (t : Nat), t ≤ 31 →
    (s.el = .EL1 → s.el2Enabled = true → s.hcrTid3 = true →
      (s.config.FEAT_FGT = true → exec (.mrsIdAa64mmfr3El1 t) s = .fault (.systemAccessTrap .EL2 0x18 s)) ∧
      (s.config.IDREG ≠ 0 → exec (.mrsIdAa64mmfr3El1 t) s = .fault (.systemAccessTrap .EL2 0x18 s)) ∧
      (s.config.FEAT_FGT = false → s.config.IDREG = 0 →
        (exec (.mrsIdAa64mmfr3El1 t) s = .fault (.systemAccessTrap .EL2 0x18 s) ↔
          s.config.TID3_TRAPS_WHEN_ZERO = true))) ∧
    (u.config.IDREG = s.config.IDREG → u.config.FEAT_IDST = s.config.FEAT_IDST →
      u.config.TID3_TRAPS_WHEN_ZERO = s.config.TID3_TRAPS_WHEN_ZERO → u.el = s.el → u.el2Enabled = s.el2Enabled →
      u.hcrTge = s.hcrTge → u.hcrTid3 = s.hcrTid3 →
      ¬(s.el = .EL1 ∧ s.el2Enabled = true ∧ s.hcrTid3 = true ∧ s.config.IDREG = 0 ∧
        s.config.TID3_TRAPS_WHEN_ZERO = false) →
      verdict (exec (.mrsIdAa64mmfr3El1 t) u) = verdict (exec (.mrsIdAa64mmfr3El1 t) s))

/-- R143, R55 (decisions D4, D24): when `EL2Enabled` is false HCR_EL2 is not consulted, whatever its fields hold: an
EL1 read succeeds, an EL0 read traps to EL1 or is UNDEFINED, and other values give the same outcome. -/
def Obligations.HcrIsNotConsultedWithoutEL2Enabled : Prop :=
  ∀ (s : State) (t : Nat) (tge tid3 : Bool), t ≤ 31 → s.el2Enabled = false →
    (s.el = .EL1 → exec (.mrsIdAa64mmfr3El1 t) s = .next (afterRead t s)) ∧
    (s.el = .EL0 → s.config.FEAT_IDST = true →
      exec (.mrsIdAa64mmfr3El1 t) s = .fault (.systemAccessTrap .EL1 0x18 s)) ∧
    verdict (exec (.mrsIdAa64mmfr3El1 t) { s with hcrTge := tge, hcrTid3 := tid3 }) =
      verdict (exec (.mrsIdAa64mmfr3El1 t) s) ∧
    ∀ s', exec (.mrsIdAa64mmfr3El1 t) s = .next s' →
      exec (.mrsIdAa64mmfr3El1 t) { s with hcrTge := tge, hcrTid3 := tid3 } =
        .next { s' with hcrTge := tge, hcrTid3 := tid3 }

/-- R130. The accessor has exactly three exceptional outcomes, each under exactly its condition, and nothing else in
scope raises anything. -/
def Obligations.ExceptionalOutcomesAreExactlyThree : Prop :=
  (∀ (s : State) (t : Nat), t ≤ 31 →
    (exec (.mrsIdAa64mmfr3El1 t) s = .fault (.systemAccessTrap .EL1 0x18 s) ↔
      s.el = .EL0 ∧ s.config.FEAT_IDST = true ∧ ¬(s.el2Enabled = true ∧ s.hcrTge = true)) ∧
    (exec (.mrsIdAa64mmfr3El1 t) s = .fault (.systemAccessTrap .EL2 0x18 s) ↔
      (s.el = .EL0 ∧ s.config.FEAT_IDST = true ∧ s.el2Enabled = true ∧ s.hcrTge = true) ∨
      (s.el = .EL1 ∧ s.el2Enabled = true ∧ ClauseB s.config ∧ s.hcrTid3 = true)) ∧
    (exec (.mrsIdAa64mmfr3El1 t) s = .fault (.undefined s) ↔ s.el = .EL0 ∧ s.config.FEAT_IDST = false)) ∧
  (∀ (s : State) (i : Instr) (f : Fault), (exec i s = .fault f ∨ step s = .fault f) →
    f = .systemAccessTrap .EL1 0x18 s ∨ f = .systemAccessTrap .EL2 0x18 s ∨ f = .undefined s)

/-- R133 (marked derived), R135 (decision D6): an exceptional outcome of any step carries the unchanged state: every
register holds its old value and pc still addresses the MRS (log 4). -/
def Obligations.ExceptionalOutcomesArePrecise : Prop :=
  ∀ (s : State) (f : Fault), step s = .fault f →
    f.state = s ∧ ∃ bytes t, s.fetch = .ok bytes ∧ decode bytes = .ok (.mrsIdAa64mmfr3El1 t, [])

/-! ## What is and is not written -/

/-- R119 (marked derived): the frame of the instruction. Every register but X[t], the configuration, PSTATE.EL,
EL2Enabled, HCR_EL2 and every byte of the program text are unchanged; the pc may change. No flag, special register,
accumulator or exception register exists in scope (R58 to R60). -/
def Obligations.ReadChangesOnlyItsDestination : Prop :=
  ∀ (s s' : State) (t : Nat), exec (.mrsIdAa64mmfr3El1 t) s = .next s' →
    (∀ i : Nat, i ≠ t → s'.readX i = s.readX i) ∧ SameOutside s s'

/-- R123 (marked general knowledge, decision D7; log 5): for t = 31 all the checks are still made with the same
outcomes, the value is discarded, no general register changes, and pc still advances. -/
def Obligations.WriteToTheZeroRegisterIsDiscarded : Prop :=
  ∀ (s : State) (t : Nat), t ≤ 31 →
    verdict (exec (.mrsIdAa64mmfr3El1 31) s) = verdict (exec (.mrsIdAa64mmfr3El1 t) s) ∧
    (verdict (exec (.mrsIdAa64mmfr3El1 t) s) = .completes →
      exec (.mrsIdAa64mmfr3El1 31) s = .next { s with pc := s.pc + 4 })

/-- R124 (marked derived): the old value of X[t] has no influence and is wholly overwritten. -/
def Obligations.OldDestinationValueHasNoInfluence : Prop :=
  ∀ (s s' : State) (t : Nat) (old : Word), t < 31 →
    verdict (exec (.mrsIdAa64mmfr3El1 t) (s.writeX t old)) = verdict (exec (.mrsIdAa64mmfr3El1 t) s) ∧
    (exec (.mrsIdAa64mmfr3El1 t) (s.writeX t old) = .next s' ↔ exec (.mrsIdAa64mmfr3El1 t) s = .next s')

/-- R21, R74, R125 (marked derived): within one implementation every successful read returns the same 64 bits, IDREG,
whatever the Exception level, the destination and the rest of the state. -/
def Obligations.SuccessfulReadsAgree : Prop :=
  ∀ (s s' u u' : State) (t v : Nat), t < 31 → v < 31 → s.config = u.config →
    exec (.mrsIdAa64mmfr3El1 t) s = .next s' → exec (.mrsIdAa64mmfr3El1 v) u = .next u' →
    s'.readX t = u'.readX v ∧ s'.readX t = s.config.IDREG

/-! ## Whole-machine rules -/

/-- Every step keeps the invariant: pc a multiple of 4 (R57, R76; decisions D8, D9), the program text canonical. -/
def Obligations.StepKeepsInvariant : Prop :=
  ∀ s s' : State, Inv s → step s = .next s' → Inv s'

/-- The state after reset meets the invariant (its pc is the model's choice, log 1). -/
def Obligations.ResetMeetsInvariant : Prop := Inv State.reset

/-- R61, R160 (decision D12): a reset leaves the implementation's constant as it is, and it is legal (R162, log 2). -/
def Obligations.ResetLeavesTheConfiguration : Prop :=
  State.reset.config = Config.implementation ∧
  IdReg.legal State.reset.config.IDREG State.reset.config.FEAT_RASv2 State.reset.config.FEAT_FPACCOMBINE = true

/-- A run of n steps from any state: the configuration, PSTATE.EL (R142), EL2Enabled, HCR_EL2 and the program text
(R82) are constant through it, pc has moved by 4n (R168 (c)), and every general register holds its old value or the
one constant IDREG (R21, R119). These rules are marked derived or decided (logs 7, 10, 11). -/
def Obligations.RunsChangeOnlyRegistersToIdregAndPc : Prop :=
  ∀ (n : Nat) (s s' : State), RunsTo n s s' →
    SameOutside s s' ∧ s'.pc = s.pc + BitVec.ofNat 64 (4 * n) ∧
    ∀ i : Nat, s'.readX i = s.readX i ∨ s'.readX i = s.config.IDREG

/-- R163 (marked derived): at EL2 and EL3 software need initialise nothing. From any state there whose pc is a multiple
of 4 (R76: decision D9, general knowledge; log 9), if the next n words of the program text are the accessor's, the n
steps complete, whatever HCR_EL2, EL2Enabled, the features and the registers hold. -/
def Obligations.ReadsAtEL2AndEL3NeedNoInitialisation : Prop :=
  ∀ (n : Nat) (s : State), (s.el = .EL2 ∨ s.el = .EL3) → isAligned s.pc = true →
    (∀ k : Nat, k < n → ∃ t : Nat, t ≤ 31 ∧ ∀ j : Nat, j < 4 →
      s.text.readByte (s.pc + BitVec.ofNat 64 (4 * k + j)).toNat = (encode (.mrsIdAa64mmfr3El1 t))[j]?) →
    ∃ s', RunsTo n s s'

/-! ## Launch -/

/-- R162, R49 (decision D14), R76 (D9), R161 (D12): a configuration that is not legal is refused, a misaligned launch is
refused, and any other launch starts the machine in the state it names (log 3). -/
def Obligations.LaunchRefusesOrStartsAsNamed : Prop :=
  ∀ l : Launch,
    (l.parameters.isLegal = false → launch l = .refused .illegalConfiguration) ∧
    (l.parameters.isLegal = true → l.pc.toNat % 4 ≠ 0 → launch l = .refused .misalignedPc) ∧
    (l.parameters.isLegal = true → l.pc.toNat % 4 = 0 →
      ∃ s, launch l = .next s ∧ Inv s ∧ s.config.toParameters = l.parameters ∧ s.x = l.x ∧ s.pc = l.pc ∧
        s.el = l.el ∧ s.el2Enabled = l.el2Enabled ∧ s.hcrTge = l.hcrTge ∧ s.hcrTid3 = l.hcrTid3)

/-- D10, R75: a launch places its program's words at base, base + 4, ..., each little-endian, and a step at the k-th of
them reads exactly it (the layout is the spec's decision; log 10). -/
def Obligations.LaunchPlacesEveryWordOfTheProgram : Prop :=
  ∀ (l : Launch) (s : State), launch l = .next s → 4 * l.program.length ≤ 2 ^ 64 →
    ∀ (k : Nat) (h : k < l.program.length),
      State.fetch { s with pc := l.pc + BitVec.ofNat 64 (4 * k) } = .ok (bytesOfWord l.program[k])

/-! ## The register -/

/-- R22 and R12: the sixteen fields sit where the layout table says, and a legal register is the sum of its fields, bits
[51:48] adding nothing. -/
def Obligations.RegisterIsTheSumOfItsFields : Prop :=
  (∀ v : Word,
    (IdReg.fieldOf .Spec_FPACC v).toNat = v.toNat / 2 ^ 60 % 16 ∧ (IdReg.fieldOf .ADERR v).toNat = v.toNat / 2 ^ 56 % 16 ∧
    (IdReg.fieldOf .SDERR v).toNat = v.toNat / 2 ^ 52 % 16 ∧ (IdReg.fieldOf .RES0 v).toNat = v.toNat / 2 ^ 48 % 16 ∧
    (IdReg.fieldOf .ANERR v).toNat = v.toNat / 2 ^ 44 % 16 ∧ (IdReg.fieldOf .SNERR v).toNat = v.toNat / 2 ^ 40 % 16 ∧
    (IdReg.fieldOf .D128_2 v).toNat = v.toNat / 2 ^ 36 % 16 ∧ (IdReg.fieldOf .D128 v).toNat = v.toNat / 2 ^ 32 % 16 ∧
    (IdReg.fieldOf .MEC v).toNat = v.toNat / 2 ^ 28 % 16 ∧ (IdReg.fieldOf .AIE v).toNat = v.toNat / 2 ^ 24 % 16 ∧
    (IdReg.fieldOf .S2POE v).toNat = v.toNat / 2 ^ 20 % 16 ∧ (IdReg.fieldOf .S1POE v).toNat = v.toNat / 2 ^ 16 % 16 ∧
    (IdReg.fieldOf .S2PIE v).toNat = v.toNat / 2 ^ 12 % 16 ∧ (IdReg.fieldOf .S1PIE v).toNat = v.toNat / 2 ^ 8 % 16 ∧
    (IdReg.fieldOf .SCTLRX v).toNat = v.toNat / 2 ^ 4 % 16 ∧ (IdReg.fieldOf .TCRX v).toNat = v.toNat % 16) ∧
  (∀ c : Config,
    c.IDREG.toNat =
      (IdReg.fieldOf .Spec_FPACC c.IDREG).toNat * 2 ^ 60 + (IdReg.fieldOf .ADERR c.IDREG).toNat * 2 ^ 56 +
      (IdReg.fieldOf .SDERR c.IDREG).toNat * 2 ^ 52 + 0 * 2 ^ 48 + (IdReg.fieldOf .ANERR c.IDREG).toNat * 2 ^ 44 +
      (IdReg.fieldOf .SNERR c.IDREG).toNat * 2 ^ 40 + (IdReg.fieldOf .D128_2 c.IDREG).toNat * 2 ^ 36 +
      (IdReg.fieldOf .D128 c.IDREG).toNat * 2 ^ 32 + (IdReg.fieldOf .MEC c.IDREG).toNat * 2 ^ 28 +
      (IdReg.fieldOf .AIE c.IDREG).toNat * 2 ^ 24 + (IdReg.fieldOf .S2POE c.IDREG).toNat * 2 ^ 20 +
      (IdReg.fieldOf .S1POE c.IDREG).toNat * 2 ^ 16 + (IdReg.fieldOf .S2PIE c.IDREG).toNat * 2 ^ 12 +
      (IdReg.fieldOf .S1PIE c.IDREG).toNat * 2 ^ 8 + (IdReg.fieldOf .SCTLRX c.IDREG).toNat * 2 ^ 4 +
      (IdReg.fieldOf .TCRX c.IDREG).toNat)

/-- R23, R24, R32: bits [51:48] are 0b0000; without FEAT_FPACCOMBINE bits [63:60] are 0b0000 and report nothing (that
they report nothing is the model's reading, logs 16 and 21); with it they hold one of the two defined values, each with
the meaning R24 gives it (that they hold no other value is R49, decisions D14 and D26; logs 3 and 16). -/
def Obligations.ReservedBitsAreZeroAndSpecFpaccHasItsMeaning : Prop :=
  ∀ c : Config,
    IdReg.fieldOf .RES0 c.IDREG = 0b0000 ∧
    (c.FEAT_FPACCOMBINE = false →
      IdReg.fieldOf .Spec_FPACC c.IDREG = 0b0000 ∧ IdReg.specFpaccReport c.IDREG c.FEAT_FPACCOMBINE = none) ∧
    (c.FEAT_FPACCOMBINE = true →
      (IdReg.fieldOf .Spec_FPACC c.IDREG = 0b0000 ∧
        IdReg.specFpaccReport c.IDREG c.FEAT_FPACCOMBINE = some .notDisclosed) ∨
      (IdReg.fieldOf .Spec_FPACC c.IDREG = 0b0001 ∧
        IdReg.specFpaccReport c.IDREG c.FEAT_FPACCOMBINE = some .notMateriallyDifferent))

/-- R27, R30, R34, R36: the twelve constraints the source places on the two error pairs, each of every legal
configuration. -/
def Obligations.ErrorFieldsMeetTheSourceConstraints : Prop :=
  ∀ c : Config,
    let ADERR := IdReg.fieldOf .ADERR c.IDREG
    let SDERR := IdReg.fieldOf .SDERR c.IDREG
    let ANERR := IdReg.fieldOf .ANERR c.IDREG
    let SNERR := IdReg.fieldOf .SNERR c.IDREG
    (c.FEAT_RASv2 = true → SDERR = 0b0000 → ADERR = 0b0001) ∧
    (SDERR = 0b0001 → ADERR = 0b0000) ∧
    (SDERR = 0b0010 → ADERR = 0b0010) ∧
    (c.FEAT_RASv2 = true → ADERR = 0b0000 → SDERR = 0b0001) ∧
    (ADERR = 0b0001 → SDERR = 0b0000) ∧
    (ADERR = 0b0010 → SDERR = 0b0010) ∧
    (c.FEAT_RASv2 = true → SNERR = 0b0000 → ANERR = 0b0001) ∧
    (SNERR = 0b0001 → ANERR = 0b0000) ∧
    (SNERR = 0b0010 → ANERR = 0b0010) ∧
    (c.FEAT_RASv2 = true → ANERR = 0b0000 → SNERR = 0b0001) ∧
    (ANERR = 0b0001 → SNERR = 0b0000) ∧
    (ANERR = 0b0010 → SNERR = 0b0010)

/-- R50 (marked derived): the legality predicate is exactly "every field holds a defined value" (R22, R23, R32, R49)
together with the source's twelve constraints (R27, R30, R34, R36): nothing is added, nothing is lost. -/
def Obligations.LegalityIsDefinedValuesAndConstraints : Prop :=
  ∀ (v : Word) (rasv2 fpaccombine : Bool),
    IdReg.legal v rasv2 fpaccombine = true ↔
      (∀ F : Field, IdReg.fieldOf F v ∈ F.definedValues fpaccombine) ∧
      (∀ p ∈ [(IdReg.fieldOf .ADERR v, IdReg.fieldOf .SDERR v), (IdReg.fieldOf .ANERR v, IdReg.fieldOf .SNERR v)],
        (rasv2 = true → p.2 = 0b0000 → p.1 = 0b0001) ∧ (p.2 = 0b0001 → p.1 = 0b0000) ∧ (p.2 = 0b0010 → p.1 = 0b0010) ∧
        (rasv2 = true → p.1 = 0b0000 → p.2 = 0b0001) ∧ (p.1 = 0b0001 → p.2 = 0b0000) ∧ (p.1 = 0b0010 → p.2 = 0b0010))

/-- R31, R38 (marked derived): the pairs of error fields that some legal value holds are exactly those of the tables,
and the Device pair and the Normal pair are independent of each other. -/
def Obligations.LegalErrorPairsAreTheTabulatedOnes : Prop :=
  ∀ (rasv2 fpaccombine : Bool) (ad sd an sn : Nibble),
    (∃ v : Word, IdReg.legal v rasv2 fpaccombine = true ∧ IdReg.fieldOf .ADERR v = ad ∧ IdReg.fieldOf .SDERR v = sd ∧
        IdReg.fieldOf .ANERR v = an ∧ IdReg.fieldOf .SNERR v = sn) ↔
      ((ad, sd) ∈ [(0b0001, 0b0000), (0b0000, 0b0001), (0b0010, 0b0010)] ∨ ((ad, sd) = (0b0000, 0b0000) ∧ rasv2 = false)) ∧
      ((an, sn) ∈ [(0b0001, 0b0000), (0b0000, 0b0001), (0b0010, 0b0010)] ∨ ((an, sn) = (0b0000, 0b0000) ∧ rasv2 = false))

/-- R50's count (marked derived): for each setting of the two flags, a list without repeats that holds exactly the
legal values, and its length. -/
def Obligations.LegalValuesAreCounted : Prop :=
  ∀ rasv2 fpaccombine : Bool, ∃ values : List Word,
    values.Nodup ∧ (∀ v : Word, v ∈ values ↔ IdReg.legal v rasv2 fpaccombine = true) ∧
    values.length =
      (match rasv2, fpaccombine with
        | false, false => 16384
        | false, true => 32768
        | true, false => 9216
        | true, true => 18432)

/-- R51, R100 (decision D23): the all-zero value is legal exactly when FEAT_RASv2 is false, and an implementation that
holds it reads 64 zero bits wherever the read succeeds. -/
def Obligations.AllZeroRegisterReadsAsZero : Prop :=
  (∀ rasv2 fpaccombine : Bool, IdReg.legal 0 rasv2 fpaccombine = true ↔ rasv2 = false) ∧
  (∀ (s s' : State) (t : Nat), t < 31 → s.config.IDREG = 0 → exec (.mrsIdAa64mmfr3El1 t) s = .next s' →
    s'.readX t = 0)

/-- R28, R37, R41 to R46 (decision D22): the eight feature facts the register determines. FEAT_ADERR and FEAT_ANERR are
the same read from either field of the pair; each of the other six is "the field holds 0b0001", and is the case exactly
when the field's report says supported (log 21). -/
def Obligations.FeatureFactsFollowTheFields : Prop :=
  ∀ c : Config,
    (c.isFeatureImplemented .FEAT_ADERR = true ↔ IdReg.fieldOf .ADERR c.IDREG = 0b0010) ∧
    (c.isFeatureImplemented .FEAT_ADERR = true ↔ IdReg.fieldOf .SDERR c.IDREG = 0b0010) ∧
    (c.isFeatureImplemented .FEAT_ANERR = true ↔ IdReg.fieldOf .ANERR c.IDREG = 0b0010) ∧
    (c.isFeatureImplemented .FEAT_ANERR = true ↔ IdReg.fieldOf .SNERR c.IDREG = 0b0010) ∧
    (∀ p ∈ [(Feature.FEAT_MEC, Field.MEC, IdReg.mecSupportedForRealm c.IDREG),
        (.FEAT_AIE, .AIE, IdReg.attributeIndexAtStage1Supported c.IDREG),
        (.FEAT_S2POE, .S2POE, IdReg.permissionOverlayAtStage2Supported c.IDREG),
        (.FEAT_S1POE, .S1POE, IdReg.permissionOverlayAtStage1Supported c.IDREG),
        (.FEAT_S2PIE, .S2PIE, IdReg.permissionIndirectionAtStage2Supported c.IDREG),
        (.FEAT_S1PIE, .S1PIE, IdReg.permissionIndirectionAtStage1Supported c.IDREG)],
      (c.isFeatureImplemented p.1 = true ↔ IdReg.fieldOf p.2.1 c.IDREG = 0b0001) ∧
      (c.isFeatureImplemented p.1 = true ↔ p.2.2 = some true))

/-- R26, R29, R31, R33, R35, R38 (R31 and R38 marked derived; the named reports are the model's, log 21): in every legal
configuration the pair (ADERR, SDERR) and its report are a row of R31's table, and the pair (ANERR, SNERR) and its
report a row of R38's: (0b0001, 0b0000) some error exceptions are taken asynchronously, (0b0000, 0b0001) all are taken
synchronously, (0b0010, 0b0010) the feature and its two control bits are implemented, and (0b0000, 0b0000), only
without FEAT_RASv2, the behavior is not described. The feature, and the control bits of SCTLR2_ELx and HCRX_EL2, are
implemented exactly in the row that says so. -/
def Obligations.ErrorReportsAreDescribed : Prop :=
  ∀ c : Config,
    (∃ r, IdReg.deviceErrorReport c.IDREG = some r ∧
      ((IdReg.fieldOf .ADERR c.IDREG, IdReg.fieldOf .SDERR c.IDREG, r) ∈
          [(0b0001, 0b0000, .someAsynchronous), (0b0000, 0b0001, .allSynchronous),
           (0b0010, 0b0010, .controlsImplemented)] ∨
        (IdReg.fieldOf .ADERR c.IDREG, IdReg.fieldOf .SDERR c.IDREG, r) = (0b0000, 0b0000, .notDescribed) ∧
          c.FEAT_RASv2 = false) ∧
      (r = .controlsImplemented ↔ c.isFeatureImplemented .FEAT_ADERR = true) ∧
      (r = .controlsImplemented ↔ IdReg.deviceErrorControlsImplemented c.IDREG = true)) ∧
    (∃ r, IdReg.normalErrorReport c.IDREG = some r ∧
      ((IdReg.fieldOf .ANERR c.IDREG, IdReg.fieldOf .SNERR c.IDREG, r) ∈
          [(0b0001, 0b0000, .someAsynchronous), (0b0000, 0b0001, .allSynchronous),
           (0b0010, 0b0010, .controlsImplemented)] ∨
        (IdReg.fieldOf .ANERR c.IDREG, IdReg.fieldOf .SNERR c.IDREG, r) = (0b0000, 0b0000, .notDescribed) ∧
          c.FEAT_RASv2 = false) ∧
      (r = .controlsImplemented ↔ c.isFeatureImplemented .FEAT_ANERR = true) ∧
      (r = .controlsImplemented ↔ IdReg.normalErrorControlsImplemented c.IDREG = true))

/-- R39 to R48 and R49 (decisions D14, D26; logs 3, 16 and 21): in a legal configuration each of the ten 0-or-1 fields
holds 0b0000 and reports "not supported" or "not implemented" (`some false`), or holds 0b0001 and reports "supported"
or "implemented" (`some true`). -/
def Obligations.SupportFieldsReportDefinedValues : Prop :=
  ∀ c : Config,
    ∀ p ∈ [(IdReg.fieldOf .D128_2 c.IDREG, IdReg.d128AtStage2Supported c.IDREG),
        (IdReg.fieldOf .D128 c.IDREG, IdReg.d128Supported c.IDREG),
        (IdReg.fieldOf .MEC c.IDREG, IdReg.mecSupportedForRealm c.IDREG),
        (IdReg.fieldOf .AIE c.IDREG, IdReg.attributeIndexAtStage1Supported c.IDREG),
        (IdReg.fieldOf .S2POE c.IDREG, IdReg.permissionOverlayAtStage2Supported c.IDREG),
        (IdReg.fieldOf .S1POE c.IDREG, IdReg.permissionOverlayAtStage1Supported c.IDREG),
        (IdReg.fieldOf .S2PIE c.IDREG, IdReg.permissionIndirectionAtStage2Supported c.IDREG),
        (IdReg.fieldOf .S1PIE c.IDREG, IdReg.permissionIndirectionAtStage1Supported c.IDREG),
        (IdReg.fieldOf .SCTLRX c.IDREG, IdReg.sctlr2Implemented c.IDREG),
        (IdReg.fieldOf .TCRX c.IDREG, IdReg.tcr2Implemented c.IDREG)],
      p = (0b0000, some false) ∨ p = (0b0001, some true)
end

