-- ==== Sys2Proof/Laws/Decode.lean ====
section
/-! SUPPORT. The laws of the word format (30_encoding.md R92) and of the byte order (20_memory.md R75). -/

namespace Sys2Proof

/-- No bit of a word is lost in its fields. -/
theorem joinWord_splitWord (w : InstrWord) : joinWord (splitWord w) = w := by
  apply BitVec.eq_of_getLsbD_eq
  intro i hi
  simp only [joinWord, splitWord, BitVec.getLsbD_append, BitVec.getLsbD_extractLsb']
  interval_cases i <;> simp

/-- No bit of a field is lost in the word. -/
theorem splitWord_joinWord (f : SysregFormat) : splitWord (joinWord f) = f := by
  obtain ⟨fixed, L, ⟨op0, op1, CRn, CRm, op2⟩, Rt⟩ := f
  simp only [joinWord, splitWord, SysregFormat.mk.injEq, SysRegLocation.mk.injEq]
  refine ⟨?_, ?_, ⟨?_, ?_, ?_, ?_, ?_⟩, ?_⟩ <;>
    · apply BitVec.eq_of_getLsbD_eq
      intro i hi
      simp only [BitVec.getLsbD_append, BitVec.getLsbD_extractLsb']
      interval_cases i <;> simp

/-- The bytes of a word give the word back. -/
theorem wordOfBytes_bytesOfWord (w : InstrWord) :
    wordOfBytes (w.extractLsb' 0 8) (w.extractLsb' 8 8) (w.extractLsb' 16 8) (w.extractLsb' 24 8) = w := by
  apply BitVec.eq_of_getLsbD_eq
  intro i hi
  simp only [wordOfBytes, BitVec.getLsbD_append, BitVec.getLsbD_extractLsb']
  interval_cases i <;> simp

/-- The word of four bytes gives the bytes back. -/
theorem bytesOfWord_wordOfBytes (b0 b1 b2 b3 : Byte) : bytesOfWord (wordOfBytes b0 b1 b2 b3) = [b0, b1, b2, b3] := by
  simp only [bytesOfWord, wordOfBytes, List.cons.injEq, and_true]
  refine ⟨?_, ?_, ?_, ?_⟩ <;>
    · apply BitVec.eq_of_getLsbD_eq
      intro i hi
      simp only [BitVec.getLsbD_append, BitVec.getLsbD_extractLsb']
      interval_cases i <;> simp

/-- Decoding the bytes of a word is decoding the word. -/
theorem decode_bytesOfWord (w : InstrWord) (rest : List Byte) :
    decode (bytesOfWord w ++ rest) =
      match decodeWord w with
      | .ok i => .ok (i, rest)
      | .error r => .error r := by
  cases h : decodeWord w <;>
    simp [bytesOfWord, decode, wordOfBytes_bytesOfWord, h]

/-- The word of an instruction decodes to it (one word: the bytes are `decode_bytesOfWord`). -/
theorem decodeWord_encodeWord {i : Instr} (h : i.wellFormed = true) : decodeWord (encodeWord i) = .ok i := by
  cases i with
  | mrsIdAa64mmfr3El1 t =>
    have ht : t < 32 := by simpa [Instr.wellFormed, Nat.lt_succ_iff] using h
    simp [decodeWord, encodeWord, splitWord_joinWord, BitVec.toNat_ofNat, Nat.mod_eq_of_lt ht]

/-- Everything `decodeWord` can accept. -/
theorem decodeWord_ok {w : InstrWord} {i : Instr} (h : decodeWord w = .ok i) :
    i.wellFormed = true ∧ encodeWord i = w := by
  unfold decodeWord at h
  split at h
  · next hc =>
    cases h
    obtain ⟨hf, hl, hloc⟩ := hc
    refine ⟨?_, ?_⟩
    · have := (splitWord w).Rt.isLt
      simp only [Instr.wellFormed, decide_eq_true_eq]
      omega
    · have e : encodeWord (.mrsIdAa64mmfr3El1 (splitWord w).Rt.toNat) = joinWord (splitWord w) := by
        simp only [encodeWord, BitVec.ofNat_toNat, BitVec.setWidth_eq]
        rw [← hf, ← hl, ← hloc]
      rw [e, joinWord_splitWord]
  · cases h

end Sys2Proof
end

