-- ==== Sys2Proof/Laws/IdReg.lean ====
section
/-! SUPPORT. The laws of the register's layout (10_state.md R22): the fields and the whole value determine each other,
and every single field of a legal value is one of its defined values. -/

namespace Sys2Proof.IdReg

/-- A value is put together from its fields. -/
theorem ofFields_fieldOf (v : Word) : ofFields (fun F => fieldOf F v) = v := by
  apply BitVec.eq_of_getLsbD_eq
  intro i hi
  simp only [ofFields, fieldOf, Field.lo, BitVec.getLsbD_append, BitVec.getLsbD_extractLsb']
  interval_cases i <;> simp

/-- A value put together from fields has those fields. -/
theorem fieldOf_ofFields (F : Field) (n : Field → Nibble) : fieldOf F (ofFields n) = n F := by
  cases F <;>
    · apply BitVec.eq_of_getLsbD_eq
      intro i hi
      simp only [ofFields, fieldOf, Field.lo, BitVec.getLsbD_append, BitVec.getLsbD_extractLsb']
      interval_cases i <;> simp

/-- A field's number (R12). -/
theorem toNat_fieldOf (F : Field) (v : Word) : (fieldOf F v).toNat = v.toNat / 2 ^ F.lo % 16 := by
  simp [fieldOf, BitVec.extractLsb'_toNat, Nat.shiftRight_eq_div_pow]

theorem zeroOrOne_iff (F : Field) (v : Word) : zeroOrOne F v = true ↔ fieldOf F v = 0b0000 ∨ fieldOf F v = 0b0001 := by
  simp [zeroOrOne]

/-- What the legality of a value says, as propositions in the order of R50. -/
theorem legal_iff (v : Word) (rasv2 fpaccombine : Bool) : legal v rasv2 fpaccombine = true ↔
    (if fpaccombine = true then fieldOf .Spec_FPACC v = 0b0000 ∨ fieldOf .Spec_FPACC v = 0b0001
      else fieldOf .Spec_FPACC v = 0b0000) ∧
    errorPairLegal rasv2 (fieldOf .ADERR v) (fieldOf .SDERR v) = true ∧ fieldOf .RES0 v = 0b0000 ∧
    errorPairLegal rasv2 (fieldOf .ANERR v) (fieldOf .SNERR v) = true ∧
    zeroOrOne .D128_2 v = true ∧ zeroOrOne .D128 v = true ∧ zeroOrOne .MEC v = true ∧ zeroOrOne .AIE v = true ∧
    zeroOrOne .S2POE v = true ∧ zeroOrOne .S1POE v = true ∧ zeroOrOne .S2PIE v = true ∧
    zeroOrOne .S1PIE v = true ∧ zeroOrOne .SCTLRX v = true ∧ zeroOrOne .TCRX v = true := by
  unfold legal
  cases fpaccombine <;> simp [zeroOrOne, and_assoc]

/-- What a 0-or-1 field reports as supported (R39 to R48). -/
theorem support_eq_some_true (F : Field) (v : Word) : support F v = some true ↔ fieldOf F v = 0b0001 := by
  unfold support
  split
  · next h => simp [h]
  · split <;> simp_all

/-- What a field that holds 0b0000 or 0b0001 reports (R39 to R48). -/
theorem support_of_zeroOrOne {F : Field} {v : Word} (h : zeroOrOne F v = true) :
    (fieldOf F v, support F v) = (0b0000, some false) ∨ (fieldOf F v, support F v) = (0b0001, some true) := by
  rcases (zeroOrOne_iff F v).mp h with h | h <;> simp [support, h]

/-- The rows of the tables of R31 and R38: every legal pair with its report. -/
theorem errorReport_of_errorPairLegal {rasv2 : Bool} {async sync : Nibble}
    (h : errorPairLegal rasv2 async sync = true) :
    (async = 0b0001 ∧ sync = 0b0000 ∧ errorReport async sync = some .someAsynchronous) ∨
    (async = 0b0000 ∧ sync = 0b0001 ∧ errorReport async sync = some .allSynchronous) ∨
    (async = 0b0010 ∧ sync = 0b0010 ∧ errorReport async sync = some .controlsImplemented) ∨
    (async = 0b0000 ∧ sync = 0b0000 ∧ errorReport async sync = some .notDescribed ∧ rasv2 = false) := by
  revert rasv2 async sync
  decide

end Sys2Proof.IdReg
end

