-- ==== Sys2Proof/Laws/Memory.lean ====
section
/-! SUPPORT. The laws of the program text: reading back what was placed, leaving the rest alone, and keeping the
canonical form `Memory.wf`. -/

namespace Sys2Proof.Machine.Memory

theorem readByte_writeByte_self (m : Memory) (a : Nat) (v : Byte) :
    readByte (writeByte m a v) a = some v := by
  induction m with
  | nil => simp [writeByte, readByte]
  | cons c rest ih =>
    obtain ⟨k, b⟩ := c
    unfold writeByte
    split
    · simp [readByte]
    · split
      · next h => simp [readByte, h]
      · next h => simpa [readByte, h] using ih

theorem readByte_writeByte_other (m : Memory) {a a' : Nat} (v : Byte) (h : a' ≠ a) :
    readByte (writeByte m a v) a' = readByte m a' := by
  induction m with
  | nil => simp [writeByte, readByte, h]
  | cons c rest ih =>
    obtain ⟨k, b⟩ := c
    unfold writeByte
    split
    · simp [readByte, h]
    · split
      · next hk => subst hk; simp [readByte, h]
      · simp [readByte, ih]

/-- Every address of the text after a byte is placed is the placed one or an old one. -/
theorem mem_writeByte {m : Memory} {a : Nat} {v : Byte} {c : Host.Cell} (h : c ∈ writeByte m a v) :
    c = (a, v) ∨ c ∈ m := by
  induction m with
  | nil => simpa [writeByte] using h
  | cons d rest ih =>
    obtain ⟨k, b⟩ := d
    unfold writeByte at h
    split at h
    · simpa using h
    · split at h
      · next hk =>
        rcases List.mem_cons.mp h with rfl | h'
        · left; rw [hk]
        · exact .inr (List.mem_cons_of_mem _ h')
      · rcases List.mem_cons.mp h with rfl | h'
        · exact .inr List.mem_cons_self
        · rcases ih h' with rfl | h''
          · exact .inl rfl
          · exact .inr (List.mem_cons_of_mem _ h'')

/-- Placing a byte keeps the canonical form. -/
theorem wf_writeByte {m : Memory} {a : Nat} (v : Byte) (hm : m.wf) (ha : a < 2 ^ 64) : (writeByte m a v).wf := by
  obtain ⟨hs, hb⟩ := hm
  refine ⟨?_, fun c hc => ?_⟩
  · induction m with
    | nil => simp [writeByte]
    | cons d rest ih =>
      obtain ⟨k, b⟩ := d
      rw [List.pairwise_cons] at hs
      have hb' : ∀ c ∈ rest, c.1 < 2 ^ 64 := fun c hc => hb c (List.mem_cons_of_mem _ hc)
      unfold writeByte
      split
      · next hlt =>
        refine List.pairwise_cons.mpr ⟨fun c hc => ?_, List.pairwise_cons.mpr hs⟩
        rcases List.mem_cons.mp hc with rfl | hc
        · exact hlt
        · exact Nat.lt_trans hlt (hs.1 c hc)
      · split
        · exact List.pairwise_cons.mpr hs
        · next hlt hne =>
          refine List.pairwise_cons.mpr ⟨fun c hc => ?_, ih hs.2 hb'⟩
          rcases mem_writeByte hc with rfl | hc
          · show k < a; omega
          · exact hs.1 c hc
  · rcases mem_writeByte hc with rfl | hc
    · exact ha
    · exact hb c hc

/-- Placing bytes keeps the canonical form. -/
theorem wf_writeBytes {m : Memory} (a : Word) (bs : List Byte) (hm : m.wf) : (writeBytes m a bs).wf := by
  induction bs generalizing m a with
  | nil => exact hm
  | cons b rest ih => exact ih (a + 1) (wf_writeByte b hm a.isLt)

/-- Laying out a program keeps the canonical form. -/
theorem wf_loadWords {m : Memory} (a : Word) (ws : List InstrWord) (hm : m.wf) : (loadWords m a ws).wf := by
  induction ws generalizing m a with
  | nil => exact hm
  | cons w rest ih => exact ih (a + 4) (wf_writeBytes a _ hm)

/-- Two addresses less than 2^64 apart are different bytes. -/
theorem toNat_add_ne (a : Word) {i j : Nat} (hi : i < 2 ^ 64) (hj : j < 2 ^ 64) (h : i ≠ j) :
    (a + BitVec.ofNat 64 i).toNat ≠ (a + BitVec.ofNat 64 j).toNat := by
  intro e
  have e' : BitVec.ofNat 64 i = BitVec.ofNat 64 j := (BitVec.add_right_inj a).mp (BitVec.eq_of_toNat_eq e)
  have := congrArg BitVec.toNat e'
  simp only [BitVec.toNat_ofNat, Nat.mod_eq_of_lt hi, Nat.mod_eq_of_lt hj] at this
  exact h this

/-- Placing bytes leaves every other address alone. -/
theorem readByte_writeBytes_other (m : Memory) (a : Word) (bs : List Byte) {x : Nat}
    (h : ∀ j < bs.length, x ≠ (a + BitVec.ofNat 64 j).toNat) : readByte (writeBytes m a bs) x = readByte m x := by
  induction bs generalizing m a with
  | nil => rfl
  | cons b rest ih =>
    unfold writeBytes
    rw [ih]
    · exact readByte_writeByte_other _ _ (by simpa using h 0 (by simp))
    · intro j hj
      have e : a + 1 + BitVec.ofNat 64 j = a + BitVec.ofNat 64 (j + 1) := by
        rw [BitVec.add_assoc]
        congr 1
        apply BitVec.eq_of_toNat_eq
        simp
        omega
      rw [e]
      exact h (j + 1) (by simpa using hj)

/-- The four bytes of a word placed at `a` read back, each at its own address. -/
theorem readByte_writeBytes_four (m : Memory) (a : Word) (b0 b1 b2 b3 : Byte) :
    readByte (writeBytes m a [b0, b1, b2, b3]) a.toNat = some b0 ∧
    readByte (writeBytes m a [b0, b1, b2, b3]) (a + 1).toNat = some b1 ∧
    readByte (writeBytes m a [b0, b1, b2, b3]) (a + 2).toNat = some b2 ∧
    readByte (writeBytes m a [b0, b1, b2, b3]) (a + 3).toNat = some b3 := by
  have e2 : a + 1 + 1 = a + 2 := by rw [BitVec.add_assoc]; rfl
  have e3 : a + 2 + 1 = a + 3 := by rw [BitVec.add_assoc]; rfl
  have h01 : a.toNat ≠ (a + 1).toNat := by simpa using toNat_add_ne a (i := 0) (j := 1) (by decide) (by decide) (by decide)
  have h02 : a.toNat ≠ (a + 2).toNat := by simpa using toNat_add_ne a (i := 0) (j := 2) (by decide) (by decide) (by decide)
  have h03 : a.toNat ≠ (a + 3).toNat := by simpa using toNat_add_ne a (i := 0) (j := 3) (by decide) (by decide) (by decide)
  have h12 : (a + 1).toNat ≠ (a + 2).toNat := toNat_add_ne a (i := 1) (j := 2) (by decide) (by decide) (by decide)
  have h13 : (a + 1).toNat ≠ (a + 3).toNat := toNat_add_ne a (i := 1) (j := 3) (by decide) (by decide) (by decide)
  have h23 : (a + 2).toNat ≠ (a + 3).toNat := toNat_add_ne a (i := 2) (j := 3) (by decide) (by decide) (by decide)
  simp only [writeBytes, e2, e3]
  refine ⟨?_, ?_, ?_, readByte_writeByte_self _ _ _⟩
  · rw [readByte_writeByte_other _ _ h03, readByte_writeByte_other _ _ h02, readByte_writeByte_other _ _ h01,
      readByte_writeByte_self]
  · rw [readByte_writeByte_other _ _ h13, readByte_writeByte_other _ _ h12, readByte_writeByte_self]
  · rw [readByte_writeByte_other _ _ h23, readByte_writeByte_self]

end Sys2Proof.Machine.Memory
end

