-- ==== Sys2Proof/Laws/PerInstr.lean ====
section
/-! SUPPORT. Statements made per instruction, one lemma per constructor of Instr. -/

namespace Sys2Proof.Laws.Encoding

/-- The instruction's bytes: four of them (R96), whose word matches the opcode table's row under its mask (R93). -/
def Statement (i : Instr) : Prop :=
  (encode i).length = 4 ∧ encodeWord i &&& 0xFFFFFFE0 = 0xD5380760

theorem mrsIdAa64mmfr3El1 (t : Nat) : Statement (.mrsIdAa64mmfr3El1 t) := by
  refine ⟨rfl, ?_⟩
  have h : ∀ r : BitVec 5, joinWord ⟨sysregFixed, 1, idAa64mmfr3El1Location, r⟩ &&& 0xFFFFFFE0 = 0xD5380760 := by
    decide
  exact h _

end Sys2Proof.Laws.Encoding
end

