-- ==== Sys2Proof/Laws/Run.lean ====
section
/-! SUPPORT. The model's runs are the host's: `RunsTo` says of n steps what `Host.Core.run` computes. -/

namespace Sys2Proof.Machine

theorem coreRun_next (M : Host.Core) (k : Nat) {s u : M.State} (h : M.step s = .next u) :
    M.run (k + 1) s = M.run k u := by
  simp [Host.Core.run, h]

theorem coreRun_stop (M : Host.Core) (k : Nat) {s s' : M.State} (h : ∀ u, M.step s ≠ .next u) :
    M.run (k + 1) s ≠ .next s' := by
  rw [Host.Core.run]
  split
  · next u hu => exact absurd hu (h u)
  · nofun
  · nofun

/-- A run to `s'` is a run of the host's core that ends in the next state `s'`. -/
theorem runsTo_iff_core_run (n : Nat) (s s' : State) :
    RunsTo n s s' ↔ Sys2Proof.core.run n s = (Host.Outcome.next s' : Host.Outcome State Fault Refusal) := by
  induction n generalizing s with
  | zero =>
    refine ⟨fun h => by cases h; rfl, fun h => ?_⟩
    injection h with h
    exact h.symm
  | succ k ih =>
    refine ⟨fun ⟨u, hu, hr⟩ => (coreRun_next Sys2Proof.core k hu).trans ((ih u).mp hr), fun h => ?_⟩
    by_cases hs : ∃ u, step s = .next u
    · obtain ⟨u, hu⟩ := hs
      exact ⟨u, hu, (ih u).mpr ((coreRun_next Sys2Proof.core k hu).symm.trans h)⟩
    · exact absurd h (coreRun_stop Sys2Proof.core k (fun u hu => hs ⟨u, hu⟩))

end Sys2Proof.Machine
end

