-- ==== Sys2Proof/Laws/State.lean ====
section
/-! SUPPORT. One lemma per field of State per update of it, so that no proof unfolds a record update, and the laws of
the general registers (00_scope.md R15). -/

namespace Sys2Proof.Machine.State

@[simp] theorem advancePc_config (s : State) : s.advancePc.config = s.config := rfl
@[simp] theorem advancePc_x (s : State) : s.advancePc.x = s.x := rfl
@[simp] theorem advancePc_pc (s : State) : s.advancePc.pc = s.pc + 4 := rfl
@[simp] theorem advancePc_el (s : State) : s.advancePc.el = s.el := rfl
@[simp] theorem advancePc_el2Enabled (s : State) : s.advancePc.el2Enabled = s.el2Enabled := rfl
@[simp] theorem advancePc_hcrTge (s : State) : s.advancePc.hcrTge = s.hcrTge := rfl
@[simp] theorem advancePc_hcrTid3 (s : State) : s.advancePc.hcrTid3 = s.hcrTid3 := rfl
@[simp] theorem advancePc_text (s : State) : s.advancePc.text = s.text := rfl

/-- The register write to X0 to X30, as a record update. -/
theorem writeX_lt (s : State) {i : Nat} (h : i < 31) (v : Word) :
    s.writeX i v = { s with x := s.x.set i v h } := by
  simp [writeX, h]

/-- A write to the zero register is discarded. -/
theorem writeX_ge (s : State) {i : Nat} (h : 31 ≤ i) (v : Word) : s.writeX i v = s := by
  simp [writeX, Nat.not_lt.mpr h]

@[simp] theorem writeX_config (s : State) (i : Nat) (v : Word) : (s.writeX i v).config = s.config := by
  unfold writeX; split <;> rfl
@[simp] theorem writeX_pc (s : State) (i : Nat) (v : Word) : (s.writeX i v).pc = s.pc := by
  unfold writeX; split <;> rfl
@[simp] theorem writeX_el (s : State) (i : Nat) (v : Word) : (s.writeX i v).el = s.el := by
  unfold writeX; split <;> rfl
@[simp] theorem writeX_el2Enabled (s : State) (i : Nat) (v : Word) : (s.writeX i v).el2Enabled = s.el2Enabled := by
  unfold writeX; split <;> rfl
@[simp] theorem writeX_hcrTge (s : State) (i : Nat) (v : Word) : (s.writeX i v).hcrTge = s.hcrTge := by
  unfold writeX; split <;> rfl
@[simp] theorem writeX_hcrTid3 (s : State) (i : Nat) (v : Word) : (s.writeX i v).hcrTid3 = s.hcrTid3 := by
  unfold writeX; split <;> rfl
@[simp] theorem writeX_text (s : State) (i : Nat) (v : Word) : (s.writeX i v).text = s.text := by
  unfold writeX; split <;> rfl

theorem readX_lt (s : State) {i : Nat} (h : i < 31) : s.readX i = s.x[i] := by
  simp [readX, h]

/-- The zero register reads as zero. -/
theorem readX_ge (s : State) {i : Nat} (h : 31 ≤ i) : s.readX i = 0 := by
  simp [readX, Nat.not_lt.mpr h]

@[simp] theorem readX_advancePc (s : State) (i : Nat) : s.advancePc.readX i = s.readX i := rfl

theorem readX_writeX_self (s : State) {i : Nat} (h : i < 31) (v : Word) : (s.writeX i v).readX i = v := by
  simp [writeX, readX, h]

theorem readX_writeX_other (s : State) {i j : Nat} (h : i ≠ j) (v : Word) : (s.writeX i v).readX j = s.readX j := by
  unfold writeX readX
  by_cases hi : i < 31 <;> by_cases hj : j < 31 <;> simp [hi, hj, h]

end Sys2Proof.Machine.State
end

