-- ==== Sys2Proof/Laws/Step.lean ====
section
/-! SUPPORT. One spec lemma per shared operation: fetching, raising, completing a read, the meaning, and what a step
can do. -/

namespace Sys2Proof.Machine

/-- Everything a successful fetch says: `pc` is aligned and its four bytes are in the program text (R76, R168). -/
theorem fetch_ok {s : State} {bytes : List Byte} (h : s.fetch = .ok bytes) :
    isAligned s.pc = true ∧ ∃ b0 b1 b2 b3, bytes = [b0, b1, b2, b3] ∧
      s.text.readByte s.pc.toNat = some b0 ∧ s.text.readByte (s.pc + 1).toNat = some b1 ∧
      s.text.readByte (s.pc + 2).toNat = some b2 ∧ s.text.readByte (s.pc + 3).toNat = some b3 := by
  unfold State.fetch at h
  split at h
  · next ha =>
    split at h
    · next b0 b1 b2 b3 h0 h1 h2 h3 => cases h; exact ⟨ha, b0, b1, b2, b3, rfl, h0, h1, h2, h3⟩
    · cases h
  · cases h

/-- The fetch of an aligned `pc` whose four bytes are in the program text. -/
theorem fetch_eq_ok {s : State} {b0 b1 b2 b3 : Byte} (ha : isAligned s.pc = true)
    (h0 : s.text.readByte s.pc.toNat = some b0) (h1 : s.text.readByte (s.pc + 1).toNat = some b1)
    (h2 : s.text.readByte (s.pc + 2).toNat = some b2) (h3 : s.text.readByte (s.pc + 3).toNat = some b3) :
    s.fetch = .ok [b0, b1, b2, b3] := by
  unfold State.fetch
  rw [if_pos ha, h0, h1, h2, h3]

/-- A refused fetch has one of two names (R76, R168). -/
theorem fetch_error {s : State} {r : Refusal} (h : s.fetch = .error r) :
    (isAligned s.pc = false ∧ r = .misalignedPc) ∨ (isAligned s.pc = true ∧ r = .outsideProgramText) := by
  unfold State.fetch at h
  split at h
  · next ha =>
    split at h <;> cases h
    exact .inr ⟨ha, rfl⟩
  · next ha =>
    cases h
    exact .inl ⟨by simpa using ha, rfl⟩

/-- An exceptional outcome is a fault that carries the state it was raised in, and nothing else (R133, R135). -/
theorem raise_fault {outcome : State → Fault} {s : State} {f : Fault} (h : raise outcome s = .fault f) :
    f = outcome s := by
  cases h; rfl

/-- A raise is never a next state. -/
theorem raise_ne_next (outcome : State → Fault) (s s' : State) : raise outcome s ≠ .next s' := nofun

/-- A completed read: the destination and `pc` (R110). -/
theorem completeRead_next {t : Nat} {s s' : State} (h : completeRead t s = .next s') :
    s' = (s.writeX t s.config.IDREG).advancePc := by
  cases h; rfl

/-- Clause (b) of R114, as the pseudocode computes it. -/
theorem tid3CoversEncoding_eq (c : Config) :
    tid3CoversEncoding c = (c.FEAT_FGT || c.IDREG != 0 || c.TID3_TRAPS_WHEN_ZERO) := rfl

/-- Everything the meaning can do: it completes the read, or raises one of three outcomes (R110, R130). -/
theorem execMrsIdAa64mmfr3El1_cases (t : Nat) (s : State) :
    execMrsIdAa64mmfr3El1 t s = completeRead t s ∨
    execMrsIdAa64mmfr3El1 t s = raise (.systemAccessTrap .EL1 0x18) s ∨
    execMrsIdAa64mmfr3El1 t s = raise (.systemAccessTrap .EL2 0x18) s ∨
    execMrsIdAa64mmfr3El1 t s = raise .undefined s := by
  unfold execMrsIdAa64mmfr3El1
  split
  · split
    · split
      · exact .inr (.inr (.inl rfl))
      · exact .inr (.inl rfl)
    · exact .inr (.inr (.inr rfl))
  · split
    · exact .inr (.inr (.inl rfl))
    · exact .inl rfl
  · exact .inl rfl
  · exact .inl rfl

/-- Everything a step can do: it is refused by the fetch, refused by the decoder, or it runs the instruction its four
bytes decode to. -/
theorem step_cases (s : State) :
    (∃ r, s.fetch = .error r ∧ step s = .refused r) ∨
    (∃ bytes why, s.fetch = .ok bytes ∧ decode bytes = .error why ∧ step s = .refused (.undecodable why)) ∨
    (∃ bytes i rest, s.fetch = .ok bytes ∧ decode bytes = .ok (i, rest) ∧ step s = exec i s) := by
  unfold step
  cases hf : s.fetch with
  | error r => exact .inl ⟨r, rfl, rfl⟩
  | ok bytes =>
    cases hd : decode bytes with
    | error why => exact .inr (.inl ⟨bytes, why, rfl, hd, by simp [hd]⟩)
    | ok p => exact .inr (.inr ⟨bytes, p.1, p.2, rfl, hd, by simp [hd]⟩)

/-- A step that answers a next state ran an instruction. -/
theorem step_next {s s' : State} (h : step s = .next s') :
    ∃ bytes i rest, s.fetch = .ok bytes ∧ decode bytes = .ok (i, rest) ∧ exec i s = .next s' := by
  rcases step_cases s with ⟨r, -, e⟩ | ⟨_, _, -, -, e⟩ | ⟨bytes, i, rest, hf, hd, e⟩
  · rw [e] at h; cases h
  · rw [e] at h; cases h
  · exact ⟨bytes, i, rest, hf, hd, e ▸ h⟩

/-- "A multiple of 4", as a number. -/
theorem isAligned_eq (a : Word) : isAligned a = decide (a.toNat % 4 = 0) := by
  have h : a.extractLsb' 0 2 = 0 ↔ a.toNat % 4 = 0 := by
    rw [← BitVec.toNat_inj]; simp
  simp only [isAligned, beq_eq_decide, h]

/-- The address `withFetchWord` uses is a multiple of 4. -/
theorem isAligned_alignDown (a : Word) : isAligned (alignDown a) = true := by
  simp only [isAligned, alignDown, beq_iff_eq]
  apply BitVec.eq_of_getLsbD_eq
  intro i hi
  have h2 : i < 2 := hi
  interval_cases i <;> simp

/-- Adding 4 keeps a multiple of 4, at the wrap too (R57). -/
theorem isAligned_add_four (a : Word) : isAligned (a + 4) = isAligned a := by
  have four : (4 : Word).toNat = 4 := rfl
  rw [isAligned_eq, isAligned_eq, BitVec.toNat_add, four]
  have := a.isLt
  congr 1
  apply propext
  omega

@[simp] theorem withFetchWord_config (s : State) (nbits w : Nat) : (s.withFetchWord nbits w).config = s.config := rfl
@[simp] theorem withFetchWord_x (s : State) (nbits w : Nat) : (s.withFetchWord nbits w).x = s.x := rfl
@[simp] theorem withFetchWord_pc (s : State) (nbits w : Nat) : (s.withFetchWord nbits w).pc = alignDown s.pc := rfl
@[simp] theorem withFetchWord_el (s : State) (nbits w : Nat) : (s.withFetchWord nbits w).el = s.el := rfl
@[simp] theorem withFetchWord_el2Enabled (s : State) (nbits w : Nat) :
    (s.withFetchWord nbits w).el2Enabled = s.el2Enabled := rfl
@[simp] theorem withFetchWord_hcrTge (s : State) (nbits w : Nat) : (s.withFetchWord nbits w).hcrTge = s.hcrTge := rfl
@[simp] theorem withFetchWord_hcrTid3 (s : State) (nbits w : Nat) :
    (s.withFetchWord nbits w).hcrTid3 = s.hcrTid3 := rfl

/-- Placing a fetch word keeps the program text canonical. -/
theorem wf_withFetchWord {s : State} (nbits w : Nat) (h : s.text.wf) : (s.withFetchWord nbits w).text.wf :=
  Memory.wf_writeBytes _ _ h

end Sys2Proof.Machine
end

