-- ==== Sys2Proof/Tests/Slice0.lean ====
section
/-! SUPPORT. The model's own tests: well-formedness, decoding of words written out from 30_encoding.md R92, the vectors
of 95_test_vectors.md (derived there from the rules, not from this model), and for every obligation with hypotheses a
named witness that meets them. -/

namespace Sys2Proof.Tests

open Sys2Proof.Machine

/-! ## Helpers -/

theorem cfg_legal : ∀ nonzero : Bool, IdReg.legal (if nonzero then 0x11 else 0) false false = true := by decide

/-- The two register values of 95_test_vectors.md 2d: 0x11 and 0, legal without FEAT_RASv2. -/
def cfg (nonzero idst fgt imp : Bool) : Config :=
  { IDREG := if nonzero then 0x11 else 0
    FEAT_IDST := idst
    FEAT_FGT := fgt
    TID3_TRAPS_WHEN_ZERO := imp
    legal := cfg_legal nonzero }

/-- L14: every field at its largest defined value. -/
def cfgFull : Config := { IDREG := 0x1220221111111111, FEAT_RASv2 := true, FEAT_FPACCOMBINE := true }

/-- L12: the pairs (1, 0) and (0, 1), legal with FEAT_RASv2. -/
def cfgAsync : Config := { IDREG := 0x0100010000000000, FEAT_RASv2 := true }

/-- L13: the pairs (0, 1) and (1, 0), legal with FEAT_RASv2. -/
def cfgSync : Config := { IDREG := 0x0010100000000000, FEAT_RASv2 := true }

/-- A small state at address 0x1000 with nothing in the program text; every register holds the same value. -/
def bare (c : Config) (el : EL) (e2 tge tid3 : Bool) : State :=
  { config := c, x := Vector.replicate 31 0xAAAAAAAAAAAAAAAA, pc := 0x1000, el := el
    el2Enabled := e2, hcrTge := tge, hcrTid3 := tid3, text := [] }

/-- The same with one instruction word at its pc. -/
def sample (c : Config) (el : EL) (e2 tge tid3 : Bool) (w : Nat) : State :=
  (bare c el e2 tge tid3).withFetchWord 32 w

/-! ## Well-formedness (R94) -/

theorem test_wellFormed_accepts_31 : (Instr.mrsIdAa64mmfr3El1 31).wellFormed = true := by decide

theorem test_wellFormed_refuses_32 : (Instr.mrsIdAa64mmfr3El1 32).wellFormed = false := by decide

/-! ## Decoding: the word of `MRS X5, ID_AA64MMFR3_EL1` bit by bit from R92, and E1 to E10 -/

theorem test_decode_word_written_out_from_R92 :
    decodeWord (0b1101010100#10 ++ 0b1#1 ++ 0b11#2 ++ 0b000#3 ++ 0b0000#4 ++ 0b0111#4 ++ 0b011#3 ++ 0b00101#5) =
      .ok (.mrsIdAa64mmfr3El1 5) := by rfl

theorem test_decode_E1_to_E6 :
    decodeTableWord 32 0xD5380760 = some (.mrsIdAa64mmfr3El1 0) ∧
    decodeTableWord 32 0xD5380761 = some (.mrsIdAa64mmfr3El1 1) ∧
    decodeTableWord 32 0xD5380765 = some (.mrsIdAa64mmfr3El1 5) ∧
    decodeTableWord 32 0xD5380770 = some (.mrsIdAa64mmfr3El1 16) ∧
    decodeTableWord 32 0xD538077E = some (.mrsIdAa64mmfr3El1 30) ∧
    decodeTableWord 32 0xD538077F = some (.mrsIdAa64mmfr3El1 31) := by decide

theorem test_decode_refuses_E7_to_E10 :
    decodeTableWord 32 0xD5180760 = none ∧ decodeTableWord 32 0xD5380740 = none ∧
    decodeTableWord 32 0xD5380780 = none ∧ decodeTableWord 32 0x00000000 = none := by decide

theorem test_encode_E1_bytes : encode (.mrsIdAa64mmfr3El1 0) = [0x60, 0x07, 0x38, 0xD5] := by decide

/-- R103. -/
theorem test_assembly :
    assembly (.mrsIdAa64mmfr3El1 30) = "MRS X30, ID_AA64MMFR3_EL1" ∧
    assembly (.mrsIdAa64mmfr3El1 31) = "MRS XZR, ID_AA64MMFR3_EL1" ∧
    genericName idAa64mmfr3El1Location = "S3_0_C0_C7_3" := by decide

/-! ## The register (2b, 2c) -/

/-- L3, L6 and L8. -/
theorem test_fields_L3_L6_L8 :
    Field.all.map (fun F => (IdReg.fieldOf F 0x1220221111111111).toNat) = [1, 2, 2, 0, 2, 2, 1, 1, 1, 1, 1, 1, 1, 1, 1, 1] ∧
    Field.all.map (fun F => (IdReg.fieldOf F 0x0000010011111111).toNat) = [0, 0, 0, 0, 0, 1, 0, 0, 1, 1, 1, 1, 1, 1, 1, 1] ∧
    Field.all.map (fun F => (IdReg.fieldOf F 0x0001000000000000).toNat) = [0, 0, 0, 1, 0, 0, 0, 0, 0, 0, 0, 0, 0, 0, 0, 0] := by
  decide

/-- The four columns of 2c: (RASv2, FPACCOMBINE) = (false, false), (false, true), (true, false), (true, true). -/
def legalRow (v : Word) : List Bool :=
  [IdReg.legal v false false, IdReg.legal v false true, IdReg.legal v true false, IdReg.legal v true true]

theorem test_legality_L10_to_L24 :
    [0x0000000000000000, 0x0000000000000011, 0x0100010000000000, 0x0010100000000000, 0x1220221111111111,
     0x0110000000000000, 0x0200000000000000, 0x0220000000000000, 0x0100000000000000, 0x0001000000000000,
     0x0000000000000002, 0x1000000000000000, 0x0000003000000000, 0xFFFFFFFFFFFFFFFF, 0x0000010011111111].map legalRow =
    [[true, true, false, false], [true, true, false, false], [true, true, true, true], [true, true, true, true],
     [false, true, false, true], [false, false, false, false], [false, false, false, false],
     [true, true, false, false], [true, true, false, false], [false, false, false, false],
     [false, false, false, false], [false, true, false, false], [false, false, false, false],
     [false, false, false, false], [true, true, false, false]] := by decide

/-- 2c, feature facts: all eight true for L14, all eight false for L12. -/
theorem test_feature_facts_L14_L12 :
    [Feature.FEAT_ADERR, .FEAT_ANERR, .FEAT_MEC, .FEAT_AIE, .FEAT_S2POE, .FEAT_S1POE, .FEAT_S2PIE, .FEAT_S1PIE].map
      (fun f => (cfgFull.isFeatureImplemented f, cfgAsync.isFeatureImplemented f)) = List.replicate 8 (true, false) := by
  decide

/-! ## The accessor (2d, 2e) -/

/-- A row of 2d: the outcome for t = 7. -/
def row (el : EL) (idst e2 tge tid3 fgt nonzero imp : Bool) : Verdict :=
  verdict (step (sample (cfg nonzero idst fgt imp) el e2 tge tid3 0xD5380767))

theorem test_accessor_vectors_A1_to_A19 :
    [row .EL0 false false false false false true false, row .EL0 false true true true true true true,
     row .EL0 true false true true false true false, row .EL0 true true false true false true false,
     row .EL0 true true true false false true false, row .EL0 true true true false false false false,
     row .EL1 false false true true true true true, row .EL1 false true false false true true true,
     row .EL1 false true false true false true false, row .EL1 true true true true false true false,
     row .EL1 false true false true false false false, row .EL1 false true false true false false true,
     row .EL1 false true false true true false false, row .EL1 false true false false true false true,
     row .EL1 false false false true true false true, row .EL2 false true true true true true true,
     row .EL2 false true false false false false false, row .EL3 false true true true true true true,
     row .EL3 false false false false false false false] =
    [.undefined, .undefined, .systemAccessTrap .EL1 0x18, .systemAccessTrap .EL1 0x18, .systemAccessTrap .EL2 0x18,
     .systemAccessTrap .EL2 0x18, .completes, .completes, .systemAccessTrap .EL2 0x18, .systemAccessTrap .EL2 0x18,
     .completes, .systemAccessTrap .EL2 0x18, .systemAccessTrap .EL2 0x18, .completes, .completes, .completes,
     .completes, .completes, .completes] := by decide

/-- W1, W2, W3 and W5: all 64 bits replaced, the zero register's write discarded, a trap that writes nothing, the wrap. -/
theorem test_write_vectors_W1_W2_W3_W5 :
    step (sample (cfg true false false false) .EL2 false false false 0xD5380767) =
      .next ({ sample (cfg true false false false) .EL2 false false false 0xD5380767 with
        x := (Vector.replicate 31 0xAAAAAAAAAAAAAAAA).set 7 0x11, pc := 0x1004 }) ∧
    step (sample cfgFull .EL3 false false false 0xD538077F) =
      .next { sample cfgFull .EL3 false false false 0xD538077F with pc := 0x1004 } ∧
    step (sample (cfg true false false false) .EL1 true false true 0xD5380767) =
      .fault (.systemAccessTrap .EL2 0x18 (sample (cfg true false false false) .EL1 true false true 0xD5380767)) ∧
    exec (.mrsIdAa64mmfr3El1 0) { bare (cfg true false false false) .EL2 false false false with pc := 0xFFFFFFFFFFFFFFFC } =
      .next { bare (cfg true false false false) .EL2 false false false with
        x := (Vector.replicate 31 0xAAAAAAAAAAAAAAAA).set 0 0x11, pc := 0 } :=
  ⟨rfl, rfl, rfl, rfl⟩

/-- The machine right after reset runs the table's word first: log 1's `el` and `pc`, log 10's placing. -/
theorem test_step_from_reset_runs_the_word :
    step (State.reset.withFetchWord 32 0xD5380765) =
      exec (.mrsIdAa64mmfr3El1 5) (State.reset.withFetchWord 32 0xD5380765) ∧
    verdict (step (State.reset.withFetchWord 32 0xD5380765)) = .completes := ⟨rfl, by decide⟩

/-! ## Witnesses: the hypotheses of each obligation hold together somewhere -/

theorem witness_DecodeOfEncodeGivesInstructionBack :
    (Instr.mrsIdAa64mmfr3El1 0).wellFormed = true ∧ (Instr.mrsIdAa64mmfr3El1 31).wellFormed = true := by decide

theorem witness_EncodeOfDecodeGivesBytesBack :
    decode [0x7F, 0x07, 0x38, 0xD5, 0xEE] = .ok (.mrsIdAa64mmfr3El1 31, [0xEE]) := by rfl

theorem witness_DecoderAcceptsExactlyTheTableRow :
    (0 : Nat) ≤ 31 ∧ (31 : Nat) ≤ 31 ∧ (0xD538077F#32 &&& 0xFFFFFFE0 = 0xD5380760) ∧
    decodeWord 0xD538077F = .ok (.mrsIdAa64mmfr3El1 31) := ⟨by decide, by decide, by decide, rfl⟩

theorem witness_WriteDirectionIsNotInThisSpec : (0 : Nat) ≤ 31 ∧ (31 : Nat) ≤ 31 := by decide

/-- The state of the fetch witnesses: `MRS XZR, ID_AA64MMFR3_EL1` at 0x1000. -/
def fetchState : State := sample cfgFull .EL2 false false false 0xD538077F

theorem witness_StepRunsTheDecodedInstruction :
    isAligned fetchState.pc = true ∧
    fetchState.text.readByte fetchState.pc.toNat = some 0x7F ∧
    fetchState.text.readByte (fetchState.pc + 1).toNat = some 0x07 ∧
    fetchState.text.readByte (fetchState.pc + 2).toNat = some 0x38 ∧
    fetchState.text.readByte (fetchState.pc + 3).toNat = some 0xD5 ∧
    decode [0x7F, 0x07, 0x38, 0xD5] = .ok (.mrsIdAa64mmfr3El1 31, []) :=
  ⟨by decide, by decide, by decide, by decide, by decide, rfl⟩

theorem witness_InstructionWordsAreLittleEndian :
    isAligned fetchState.pc = true ∧
    fetchState.text.readByte fetchState.pc.toNat = some 0x7F ∧
    fetchState.text.readByte (fetchState.pc + 1).toNat = some 0x07 ∧
    fetchState.text.readByte (fetchState.pc + 2).toNat = some 0x38 ∧
    fetchState.text.readByte (fetchState.pc + 3).toNat = some 0xD5 ∧
    (31 : Nat) ≤ 31 ∧
    (0x7F#8).toNat + 2 ^ 8 * (0x07#8).toNat + 2 ^ 16 * (0x38#8).toNat + 2 ^ 24 * (0xD5#8).toNat = 0xD5380760 + 31 := by
  decide

/-- The write direction of the same register, at 0x1000. -/
def msrState : State := sample cfgFull .EL2 false false false 0xD5180760

theorem witness_StepRefusesWordsOutsideTheTable :
    isAligned msrState.pc = true ∧
    msrState.text.readByte msrState.pc.toNat = some 0x60 ∧
    msrState.text.readByte (msrState.pc + 1).toNat = some 0x07 ∧
    msrState.text.readByte (msrState.pc + 2).toNat = some 0x18 ∧
    msrState.text.readByte (msrState.pc + 3).toNat = some 0xD5 ∧
    (0xD5#8 ++ 0x18#8 ++ 0x07#8 ++ 0x60#8 : InstrWord) &&& 0xFFFFFFE0 ≠ 0xD5380760 := by decide

theorem witness_StepRefusesMisalignedPc :
    ({ fetchState with pc := 0x1001 } : State).pc.toNat % 4 ≠ 0 ∧
    ({ fetchState with pc := 0x1003 } : State).pc.toNat % 4 ≠ 0 := by decide

/-- Three of the four bytes listed, and none listed. -/
theorem witness_StepRefusesOutsideTheProgramText :
    (({ fetchState with text := [(0x1000, 0x7F), (0x1001, 0x07), (0x1002, 0x38)] } : State).pc.toNat % 4 = 0 ∧
      (3 : Nat) < 4 ∧
      ({ fetchState with text := [(0x1000, 0x7F), (0x1001, 0x07), (0x1002, 0x38)] } : State).text.readByte
        (fetchState.pc + BitVec.ofNat 64 3).toNat = none) ∧
    ((bare cfgFull .EL2 false false false).text.readByte (fetchState.pc + BitVec.ofNat 64 0).toNat = none) := by decide

/-- Each of the three faults and each of the three refusals happens. -/
theorem witness_StepStopsOnlyInNamedWays :
    verdict (step (sample (cfg true true false false) .EL0 false false false 0xD5380760)) = .systemAccessTrap .EL1 0x18 ∧
    verdict (step (sample (cfg true true false false) .EL0 true true false 0xD5380760)) = .systemAccessTrap .EL2 0x18 ∧
    verdict (step (sample (cfg true false false false) .EL0 true true false 0xD5380760)) = .undefined ∧
    verdict (step { fetchState with pc := 0x1002 }) = .refuses .misalignedPc ∧
    verdict (step (bare cfgFull .EL2 false false false)) = .refuses .outsideProgramText ∧
    verdict (step msrState) = .refuses (.undecodable (.notInThisSpec 0xD5180760)) := by decide

theorem witness_StepRunsThePlacedWord : (0 : Nat) ≤ 31 ∧ (31 : Nat) ≤ 31 := by decide

/-- EL0 with FEAT_IDST: trap to EL2, and to EL1 for either missing half of the condition. -/
theorem witness_ReadAtEL0WithIdstTraps :
    (31 : Nat) ≤ 31 ∧
    ((bare (cfg true true false false) .EL0 true true false).el = .EL0 ∧
      (bare (cfg true true false false) .EL0 true true false).config.FEAT_IDST = true ∧
      (bare (cfg true true false false) .EL0 true true false).el2Enabled = true ∧
      (bare (cfg true true false false) .EL0 true true false).hcrTge = true) ∧
    ¬((bare (cfg true true false false) .EL0 true false false).el2Enabled = true ∧
      (bare (cfg true true false false) .EL0 true false false).hcrTge = true) ∧
    ¬((bare (cfg true true false false) .EL0 false true false).el2Enabled = true ∧
      (bare (cfg true true false false) .EL0 false true false).hcrTge = true) := by decide

theorem witness_ReadAtEL0WithoutIdstIsUndefined :
    (0 : Nat) ≤ 31 ∧ (bare (cfg true false true true) .EL0 true true true).el = .EL0 ∧
    (bare (cfg true false true true) .EL0 true true true).config.FEAT_IDST = false := by decide

/-- EL1: the three clauses together by each way of (b), and each clause failing. -/
theorem witness_ReadAtEL1TrapsExactlyUnderTid3 :
    ClauseB (cfg false false true false) ∧ ClauseB (cfg true false false false) ∧ ClauseB (cfg false false false true) ∧
    ¬ClauseB (cfg false true false false) ∧
    (bare (cfg true false false false) .EL1 true false true).el = .EL1 ∧
    (bare (cfg true false false false) .EL1 true false true).el2Enabled = true ∧
    (bare (cfg true false false false) .EL1 true false true).hcrTid3 = true ∧
    ¬(bare (cfg true false false false) .EL1 false false true).el2Enabled = true ∧
    ¬(bare (cfg true false false false) .EL1 true false false).hcrTid3 = true := by
  refine ⟨.inl rfl, .inr (.inl (by decide)), .inr (.inr rfl), ?_, by decide, by decide, by decide, by decide, by decide⟩
  rintro (h | h | h)
  · cases h
  · exact h rfl
  · cases h

theorem witness_ReadAtEL2AlwaysSucceeds :
    (31 : Nat) ≤ 31 ∧ (bare cfgFull .EL2 false true true).el = .EL2 := by decide

theorem witness_ReadAtEL3AlwaysSucceeds :
    (31 : Nat) ≤ 31 ∧ (bare cfgFull .EL3 false true true).el = .EL3 := by decide

theorem witness_CompletedReadDeliversIdregAndAdvancesPc :
    (30 : Nat) < 31 ∧
    ∃ s', exec (.mrsIdAa64mmfr3El1 30) { bare cfgFull .EL2 false false false with pc := 0xFFFFFFFFFFFFFFFC } = .next s' :=
  ⟨by decide, _, rfl⟩

theorem witness_NothingCompletesAtEL0 :
    (sample (cfg true true false false) .EL0 true true false 0xD5380760).el = .EL0 ∧
    RunsTo 0 (sample (cfg true true false false) .EL0 true true false 0xD5380760)
      (sample (cfg true true false false) .EL0 true true false 0xD5380760) := ⟨rfl, rfl⟩

theorem witness_OutcomeFollowsTheDecisionTable : (0 : Nat) ≤ 31 ∧ (31 : Nat) ≤ 31 := by decide

theorem witness_ImplementationDefinedBooleanDecidesOneSituation :
    (bare (cfg false false false false) .EL1 true false true).el = .EL1 ∧
    (bare (cfg false false false false) .EL1 true false true).el2Enabled = true ∧
    (bare (cfg false false false false) .EL1 true false true).hcrTid3 = true ∧
    (bare (cfg false false false false) .EL1 true false true).config.FEAT_FGT = false ∧
    (bare (cfg false false false false) .EL1 true false true).config.IDREG = 0 ∧ (30 : Nat) < 31 := by decide

/-- Two machines at EL0 that differ in the register's value, in FEAT_FGT and in TID3. -/
theorem witness_OutcomeAtEL0DoesNotDependOnTheRegister :
    (bare (cfg true true false false) .EL0 true true false).config.FEAT_IDST =
      (bare (cfg false true true false) .EL0 true true true).config.FEAT_IDST ∧
    (bare (cfg true true false false) .EL0 true true false).el2Enabled =
      (bare (cfg false true true false) .EL0 true true true).el2Enabled ∧
    (bare (cfg true true false false) .EL0 true true false).hcrTge =
      (bare (cfg false true true false) .EL0 true true true).hcrTge ∧
    (cfg true true false false).IDREG ≠ (cfg false true true false).IDREG := by decide

theorem witness_TgeOnlyRoutesTheEL0Trap :
    ((bare (cfg true true false false) .EL0 true true false).el = .EL0 ∧
      (bare (cfg true true false false) .EL0 true true false).config.FEAT_IDST = true) ∧
    ((bare cfgFull .EL2 true true false).el ≠ .EL0 ∧
      ∃ s', exec (.mrsIdAa64mmfr3El1 31) (bare cfgFull .EL2 true true false) = .next s') :=
  ⟨by decide, by decide, _, rfl⟩

theorem witness_Tid3TrapsOnlyReadsAtEL1 :
    ((bare (cfg true false false false) .EL1 true false true).el = .EL1 ∧
      (bare (cfg true false false false) .EL1 true false true).el2Enabled = true ∧
      (bare (cfg true false false false) .EL1 true false true).hcrTid3 = true ∧ ClauseB (cfg true false false false)) ∧
    ((bare cfgFull .EL3 true true true).el ≠ .EL1 ∧
      ∃ s', exec (.mrsIdAa64mmfr3El1 31) (bare cfgFull .EL3 true true true) = .next s') :=
  ⟨⟨rfl, rfl, rfl, .inr (.inl (by decide))⟩, by decide, _, rfl⟩

theorem witness_FgtActsOnlyThroughTheTid3Clause :
    ((bare (cfg true false true false) .EL1 true false true).el = .EL1 ∧
      (bare (cfg true false true false) .EL1 true false true).el2Enabled = true ∧
      (bare (cfg true false true false) .EL1 true false true).hcrTid3 = true ∧
      (cfg true false true false).FEAT_FGT = true ∧ (cfg true false true false).IDREG ≠ 0) ∧
    ((cfg false false false false).FEAT_FGT = false ∧ (cfg false false false false).IDREG = 0) ∧
    ((cfg true false true false).IDREG = (cfg true false false false).IDREG ∧
      (cfg true false true false).FEAT_FGT ≠ (cfg true false false false).FEAT_FGT ∧
      (cfg true false true false).FEAT_IDST = (cfg true false false false).FEAT_IDST ∧
      (cfg true false true false).TID3_TRAPS_WHEN_ZERO = (cfg true false false false).TID3_TRAPS_WHEN_ZERO ∧
      ¬((cfg true false false false).IDREG = 0)) := by decide

theorem witness_HcrIsNotConsultedWithoutEL2Enabled :
    (bare (cfg true true false false) .EL1 false true true).el2Enabled = false ∧
    (bare (cfg true true false false) .EL1 false true true).el = .EL1 ∧
    (bare (cfg true true false false) .EL0 false true true).el2Enabled = false ∧
    (bare (cfg true true false false) .EL0 false true true).el = .EL0 ∧
    (bare (cfg true true false false) .EL0 false true true).config.FEAT_IDST = true ∧
    ∃ s', exec (.mrsIdAa64mmfr3El1 31) (bare (cfg true true false false) .EL1 false true true) = .next s' :=
  ⟨by decide, by decide, by decide, by decide, by decide, _, rfl⟩

theorem witness_ExceptionalOutcomesAreExactlyThree :
    (31 : Nat) ≤ 31 ∧
    ∃ f, exec (.mrsIdAa64mmfr3El1 31) (bare (cfg true true false false) .EL0 true true false) = .fault f ∧
      step (sample (cfg true true false false) .EL0 true true false 0xD538077F) =
        .fault (.systemAccessTrap .EL2 0x18 (sample (cfg true true false false) .EL0 true true false 0xD538077F)) :=
  ⟨by decide, _, rfl, rfl⟩

theorem witness_ExceptionalOutcomesArePrecise :
    ∃ f, step (sample (cfg true false false false) .EL1 true false true 0xD538077F) = .fault f := ⟨_, rfl⟩

theorem witness_ReadChangesOnlyItsDestination :
    ∃ s', exec (.mrsIdAa64mmfr3El1 30) (bare cfgFull .EL3 true true true) = .next s' := ⟨_, rfl⟩

theorem witness_WriteToTheZeroRegisterIsDiscarded :
    (7 : Nat) ≤ 31 ∧ verdict (exec (.mrsIdAa64mmfr3El1 7) (bare cfgFull .EL1 false true true)) = .completes := by decide

theorem witness_OldDestinationValueHasNoInfluence :
    (30 : Nat) < 31 ∧ ∃ s', exec (.mrsIdAa64mmfr3El1 30) (bare cfgFull .EL3 true true true) = .next s' :=
  ⟨by decide, _, rfl⟩

/-- Reads at EL1 into X0 and at EL3 into X30. -/
theorem witness_SuccessfulReadsAgree :
    (0 : Nat) < 31 ∧ (30 : Nat) < 31 ∧
    (bare cfgFull .EL1 false true true).config = (bare cfgFull .EL3 true true true).config ∧
    (∃ s', exec (.mrsIdAa64mmfr3El1 0) (bare cfgFull .EL1 false true true) = .next s') ∧
    ∃ u', exec (.mrsIdAa64mmfr3El1 30) (bare cfgFull .EL3 true true true) = .next u' :=
  ⟨by decide, by decide, rfl, ⟨_, rfl⟩, ⟨_, rfl⟩⟩

theorem witness_StepKeepsInvariant : Inv fetchState ∧ ∃ s', step fetchState = .next s' :=
  ⟨⟨by decide, by decide⟩, _, rfl⟩

/-- Two words of the accessor, launched at the base of 95_test_vectors.md Part 3. -/
def twoReads : Launch :=
  { parameters := cfgFull.toParameters, x := Vector.replicate 31 0, pc := 0x80000, el := .EL2
    el2Enabled := true, hcrTge := false, hcrTid3 := true, program := [0xD538077F, 0xD538077E] }

/-- The state `twoReads` starts in. -/
def twoReadsState : State :=
  { config := cfgFull, x := Vector.replicate 31 0, pc := 0x80000, el := .EL2
    el2Enabled := true, hcrTge := false, hcrTid3 := true
    text := Memory.loadWords [] 0x80000 [0xD538077F, 0xD538077E] }

theorem witness_RunsChangeOnlyRegistersToIdregAndPc : ∃ s', RunsTo 2 twoReadsState s' :=
  ⟨_, _, rfl, _, rfl, rfl⟩

theorem witness_ReadsAtEL2AndEL3NeedNoInitialisation :
    (twoReadsState.el = .EL2 ∨ twoReadsState.el = .EL3) ∧ isAligned twoReadsState.pc = true ∧
    ∀ k : Nat, k < 2 → ∃ t : Nat, t ≤ 31 ∧ ∀ j : Nat, j < 4 →
      twoReadsState.text.readByte (twoReadsState.pc + BitVec.ofNat 64 (4 * k + j)).toNat =
        (encode (.mrsIdAa64mmfr3El1 t))[j]? := by
  refine ⟨.inl rfl, rfl, ?_⟩
  intro k hk
  match k, hk with
  | 0, _ => exact ⟨31, by decide, by decide⟩
  | 1, _ => exact ⟨30, by decide, by decide⟩

/-- An illegal configuration, a misaligned launch and a good one. -/
theorem witness_LaunchRefusesOrStartsAsNamed :
    ({ twoReads with parameters := { IDREG := 2 } } : Launch).parameters.isLegal = false ∧
    (({ twoReads with pc := 0x80002 } : Launch).parameters.isLegal = true ∧
      ({ twoReads with pc := 0x80002 } : Launch).pc.toNat % 4 ≠ 0) ∧
    (twoReads.parameters.isLegal = true ∧ twoReads.pc.toNat % 4 = 0) := by decide

theorem witness_LaunchPlacesEveryWordOfTheProgram :
    launch twoReads = .next twoReadsState ∧ 4 * twoReads.program.length ≤ 2 ^ 64 ∧ (1 : Nat) < twoReads.program.length :=
  ⟨rfl, by decide, by decide⟩

theorem witness_ReservedBitsAreZeroAndSpecFpaccHasItsMeaning :
    cfgAsync.FEAT_FPACCOMBINE = false ∧ cfgFull.FEAT_FPACCOMBINE = true := by decide

/-- Every antecedent of the twelve constraints is met in some legal configuration. -/
theorem witness_ErrorFieldsMeetTheSourceConstraints :
    (cfgAsync.FEAT_RASv2 = true ∧ IdReg.fieldOf .SDERR cfgAsync.IDREG = 0b0000 ∧
      IdReg.fieldOf .ADERR cfgAsync.IDREG = 0b0001 ∧ IdReg.fieldOf .ANERR cfgAsync.IDREG = 0b0000 ∧
      IdReg.fieldOf .SNERR cfgAsync.IDREG = 0b0001) ∧
    (cfgSync.FEAT_RASv2 = true ∧ IdReg.fieldOf .ADERR cfgSync.IDREG = 0b0000 ∧
      IdReg.fieldOf .SDERR cfgSync.IDREG = 0b0001 ∧ IdReg.fieldOf .SNERR cfgSync.IDREG = 0b0000 ∧
      IdReg.fieldOf .ANERR cfgSync.IDREG = 0b0001) ∧
    (IdReg.fieldOf .ADERR cfgFull.IDREG = 0b0010 ∧ IdReg.fieldOf .SDERR cfgFull.IDREG = 0b0010 ∧
      IdReg.fieldOf .ANERR cfgFull.IDREG = 0b0010 ∧ IdReg.fieldOf .SNERR cfgFull.IDREG = 0b0010) := by decide

theorem witness_AllZeroRegisterReadsAsZero :
    (30 : Nat) < 31 ∧ (bare (cfg false false false false) .EL1 true false true).config.IDREG = 0 ∧
    ∃ s', exec (.mrsIdAa64mmfr3El1 30) (bare (cfg false false false false) .EL1 true false true) = .next s' :=
  ⟨by decide, by decide, _, rfl⟩

/-- The four reports of each of the two pairs, each of some legal configuration (the tables of R31 and R38). -/
theorem witness_ErrorReportsAreDescribed :
    [cfg true false false false, cfgAsync, cfgSync, cfgFull].map
        (fun c => (IdReg.deviceErrorReport c.IDREG, IdReg.normalErrorReport c.IDREG)) =
      [(some .notDescribed, some .notDescribed), (some .someAsynchronous, some .allSynchronous),
       (some .allSynchronous, some .someAsynchronous), (some .controlsImplemented, some .controlsImplemented)] := by decide

/-- Both rows of a 0-or-1 field, each of some legal configuration (R41, R46). -/
theorem witness_SupportFieldsReportDefinedValues :
    (IdReg.mecSupportedForRealm cfgFull.IDREG, IdReg.permissionIndirectionAtStage1Supported cfgAsync.IDREG) =
      (some true, some false) := by decide

end Sys2Proof.Tests
end

section
/-! The register of a legal configuration (10_state.md section 2): what legality says of the reserved bits, of
Spec_FPACC, of the two error pairs and of the ten 0-or-1 fields. -/

namespace Sys2Proof

namespace IdReg

/-- The constraints of R27 and R30 on (ADERR, SDERR), and of R34 and R36 on (ANERR, SNERR), hold in every row of the
tables of R31 and R38. -/
theorem errorPairLegal_constraints {rasv2 : Bool} {async sync : Nibble} (h : errorPairLegal rasv2 async sync = true) :
    (rasv2 = true → sync = 0b0000 → async = 0b0001) ∧ (sync = 0b0001 → async = 0b0000) ∧
    (sync = 0b0010 → async = 0b0010) ∧ (rasv2 = true → async = 0b0000 → sync = 0b0001) ∧
    (async = 0b0001 → sync = 0b0000) ∧ (async = 0b0010 → sync = 0b0010) := by
  obtain ⟨rfl, rfl, -⟩ | ⟨rfl, rfl, -⟩ | ⟨rfl, rfl, -⟩ | ⟨rfl, rfl, -, rfl⟩ := errorReport_of_errorPairLegal h
  all_goals simp

/-- Without FEAT_FPACCOMBINE, Spec_FPACC reports nothing (R23). -/
@[simp] theorem specFpaccReport_false (v : Word) : specFpaccReport v false = none := rfl

/-- With FEAT_FPACCOMBINE, 0b0000 does not disclose the effect of the speculative use (R24). -/
theorem specFpaccReport_of_eq_zero {v : Word} (h : fieldOf .Spec_FPACC v = 0b0000) :
    specFpaccReport v true = some .notDisclosed := by
  simp [specFpaccReport, h]

/-- With FEAT_FPACCOMBINE, 0b0001 says the speculative use is not materially different (R24). -/
theorem specFpaccReport_of_eq_one {v : Word} (h : fieldOf .Spec_FPACC v = 0b0001) :
    specFpaccReport v true = some .notMateriallyDifferent := by
  simp [specFpaccReport, h]

end IdReg

/-- Settles O42: the clauses of legality for RES0 and Spec_FPACC, the latter in each case of FEAT_FPACCOMBINE. -/
theorem reservedBitsAreZeroAndSpecFpaccHasItsMeaning :
    Obligations.ReservedBitsAreZeroAndSpecFpaccHasItsMeaning := by
  intro c
  obtain ⟨hfpacc, -, hres0, -⟩ := (IdReg.legal_iff ..).mp c.legal
  refine ⟨hres0, fun hoff => ?_, fun hon => ?_⟩
  · rw [hoff] at hfpacc ⊢
    exact ⟨by simpa using hfpacc, IdReg.specFpaccReport_false _⟩
  · rw [hon] at hfpacc ⊢
    obtain hzero | hone : _ ∨ _ := by simpa using hfpacc
    · exact .inl ⟨hzero, IdReg.specFpaccReport_of_eq_zero hzero⟩
    · exact .inr ⟨hone, IdReg.specFpaccReport_of_eq_one hone⟩

/-- Settles O43: both error pairs of a legal configuration are legal pairs, and those meet the constraints. -/
theorem errorFieldsMeetTheSourceConstraints : Obligations.ErrorFieldsMeetTheSourceConstraints := by
  intro c
  obtain ⟨-, hdevice, -, hnormal, -⟩ := (IdReg.legal_iff ..).mp c.legal
  simpa only [and_assoc] using
    And.intro (IdReg.errorPairLegal_constraints hdevice) (IdReg.errorPairLegal_constraints hnormal)

/-- Settles O50: legality makes each of the ten fields 0b0000 or 0b0001, and such a field reports its row. -/
theorem supportFieldsReportDefinedValues : Obligations.SupportFieldsReportDefinedValues := by
  intro c
  obtain ⟨-, -, -, -, hD128_2, hD128, hMEC, hAIE, hS2POE, hS1POE, hS2PIE, hS1PIE, hSCTLRX, hTCRX⟩ :=
    (IdReg.legal_iff ..).mp c.legal
  simp only [List.forall_mem_cons]
  exact ⟨IdReg.support_of_zeroOrOne hD128_2, IdReg.support_of_zeroOrOne hD128, IdReg.support_of_zeroOrOne hMEC,
    IdReg.support_of_zeroOrOne hAIE, IdReg.support_of_zeroOrOne hS2POE, IdReg.support_of_zeroOrOne hS1POE,
    IdReg.support_of_zeroOrOne hS2PIE, IdReg.support_of_zeroOrOne hS1PIE, IdReg.support_of_zeroOrOne hSCTLRX,
    IdReg.support_of_zeroOrOne hTCRX, List.forall_mem_nil _⟩

end Sys2Proof
end

section
/-! The accessor, branch by branch (40_mrs_id_aa64mmfr3.md R110): one equation of `exec` per Exception level, then one
per exclusive branch, with its rule's conditions in place of the Booleans the pseudocode computes. -/

namespace Sys2Proof.Machine

/-- The state a completed read leaves, as R110 and R15 write it out. For the zero register the write is discarded. -/
theorem completeRead_eq_next_afterRead (t : Nat) (s : State) : completeRead t s = .next (afterRead t s) := by
  unfold completeRead afterRead
  by_cases ht : t < 31
  · simp [State.writeX_lt s ht, State.advancePc, ht]
  · simp [State.writeX_ge s (Nat.not_lt.mp ht), State.advancePc, ht]

/-- HCR_EL2.TID3 covers the encoding exactly under clause (b) of R114. -/
theorem tid3CoversEncoding_iff (c : Config) : tid3CoversEncoding c = true ↔ ClauseB c := by
  simp [tid3CoversEncoding_eq, ClauseB, or_assoc]

/-- The three clauses of R114, as the pseudocode computes them. -/
theorem trapsUnderTid3_iff (s : State) :
    (s.el2Enabled && tid3CoversEncoding s.config && s.hcrTid3) = true ↔
      s.el2Enabled = true ∧ ClauseB s.config ∧ s.hcrTid3 = true := by
  simp only [Bool.and_eq_true, tid3CoversEncoding_iff, and_assoc]

variable {s : State} (t : Nat)

/-- The EL0 branch of R110. -/
theorem exec_el0 (hel : s.el = .EL0) :
    exec (.mrsIdAa64mmfr3El1 t) s =
      if s.config.FEAT_IDST then
        if s.el2Enabled && s.hcrTge then .fault (.systemAccessTrap .EL2 0x18 s)
        else .fault (.systemAccessTrap .EL1 0x18 s)
      else .fault (.undefined s) := by
  simp only [exec, execMrsIdAa64mmfr3El1, hel]
  rfl

/-- The EL1 branch of R110. -/
theorem exec_el1 (hel : s.el = .EL1) :
    exec (.mrsIdAa64mmfr3El1 t) s =
      if s.el2Enabled && tid3CoversEncoding s.config && s.hcrTid3 then .fault (.systemAccessTrap .EL2 0x18 s)
      else .next (afterRead t s) := by
  simp only [exec, execMrsIdAa64mmfr3El1, hel, completeRead_eq_next_afterRead]
  rfl

/-- The EL2 branch of R110 (R116). -/
theorem exec_el2 (hel : s.el = .EL2) : exec (.mrsIdAa64mmfr3El1 t) s = .next (afterRead t s) := by
  simp only [exec, execMrsIdAa64mmfr3El1, hel, completeRead_eq_next_afterRead]

/-- The EL3 branch of R110 (R117). -/
theorem exec_el3 (hel : s.el = .EL3) : exec (.mrsIdAa64mmfr3El1 t) s = .next (afterRead t s) := by
  simp only [exec, execMrsIdAa64mmfr3El1, hel, completeRead_eq_next_afterRead]

/-- R111, the trap that HCR_EL2.TGE routes to EL2. -/
theorem exec_el0_of_tge (hel : s.el = .EL0) (hidst : s.config.FEAT_IDST = true)
    (htge : s.el2Enabled = true ∧ s.hcrTge = true) :
    exec (.mrsIdAa64mmfr3El1 t) s = .fault (.systemAccessTrap .EL2 0x18 s) := by
  rw [exec_el0 t hel, if_pos hidst, if_pos (Bool.and_eq_true_iff.mpr htge)]

/-- R111, the trap to EL1. -/
theorem exec_el0_of_not_tge (hel : s.el = .EL0) (hidst : s.config.FEAT_IDST = true)
    (htge : ¬(s.el2Enabled = true ∧ s.hcrTge = true)) :
    exec (.mrsIdAa64mmfr3El1 t) s = .fault (.systemAccessTrap .EL1 0x18 s) := by
  rw [exec_el0 t hel, if_pos hidst, if_neg (Bool.and_eq_true_iff.not.mpr htge)]

/-- R112. -/
theorem exec_el0_of_not_idst (hel : s.el = .EL0) (hidst : s.config.FEAT_IDST = false) :
    exec (.mrsIdAa64mmfr3El1 t) s = .fault (.undefined s) := by
  rw [exec_el0 t hel, if_neg (Bool.eq_false_iff.mp hidst)]

/-- R114, under (a), (b) and (c). -/
theorem exec_el1_of_tid3 (hel : s.el = .EL1)
    (htrap : s.el2Enabled = true ∧ ClauseB s.config ∧ s.hcrTid3 = true) :
    exec (.mrsIdAa64mmfr3El1 t) s = .fault (.systemAccessTrap .EL2 0x18 s) := by
  rw [exec_el1 t hel, if_pos ((trapsUnderTid3_iff s).mpr htrap)]

/-- R114, with (a), (b) or (c) failing. -/
theorem exec_el1_of_not_tid3 (hel : s.el = .EL1)
    (htrap : ¬(s.el2Enabled = true ∧ ClauseB s.config ∧ s.hcrTid3 = true)) :
    exec (.mrsIdAa64mmfr3El1 t) s = .next (afterRead t s) := by
  rw [exec_el1 t hel, if_neg ((trapsUnderTid3_iff s).not.mpr htrap)]

end Sys2Proof.Machine

namespace Sys2Proof

open Machine

/-- Settles O16: the two EL1 branches of the accessor, under the three clauses and with one failing. -/
theorem readAtEL1TrapsExactlyUnderTid3 : Obligations.ReadAtEL1TrapsExactlyUnderTid3 :=
  fun _ t _ hel => ⟨exec_el1_of_tid3 t hel, exec_el1_of_not_tid3 t hel⟩

/-- Settles O14: the two targets of the EL0 trap with FEAT_IDST. -/
theorem readAtEL0WithIdstTraps : Obligations.ReadAtEL0WithIdstTraps :=
  fun _ t _ hel hidst => ⟨exec_el0_of_tge t hel hidst, exec_el0_of_not_tge t hel hidst⟩

/-- Settles O15: the EL0 branch without FEAT_IDST. -/
theorem readAtEL0WithoutIdstIsUndefined : Obligations.ReadAtEL0WithoutIdstIsUndefined :=
  fun _ t _ => exec_el0_of_not_idst t

/-- Settles O17: the EL2 branch has no condition. -/
theorem readAtEL2AlwaysSucceeds : Obligations.ReadAtEL2AlwaysSucceeds :=
  fun _ t _ => exec_el2 t

/-- Settles O18: the EL3 branch has no condition. -/
theorem readAtEL3AlwaysSucceeds : Obligations.ReadAtEL3AlwaysSucceeds :=
  fun _ t _ => exec_el3 t

end Sys2Proof
end

section
/-! The exceptional outcomes (60_exceptions.md R130, R137 to R139): what the accessor can do with the condition of each
outcome, when each fault is raised, and which inputs its outcome depends on. -/

namespace Sys2Proof.Machine

/-- Everything the accessor can do, each outcome with its condition: the branches of R110 (R130). -/
theorem exec_cases (t : Nat) (s : State) :
    (s.el = .EL0 ∧ s.config.FEAT_IDST = true ∧ (s.el2Enabled = true ∧ s.hcrTge = true) ∧
      exec (.mrsIdAa64mmfr3El1 t) s = .fault (.systemAccessTrap .EL2 0x18 s)) ∨
    (s.el = .EL0 ∧ s.config.FEAT_IDST = true ∧ ¬(s.el2Enabled = true ∧ s.hcrTge = true) ∧
      exec (.mrsIdAa64mmfr3El1 t) s = .fault (.systemAccessTrap .EL1 0x18 s)) ∨
    (s.el = .EL0 ∧ s.config.FEAT_IDST = false ∧ exec (.mrsIdAa64mmfr3El1 t) s = .fault (.undefined s)) ∨
    (s.el = .EL1 ∧ (s.el2Enabled = true ∧ ClauseB s.config ∧ s.hcrTid3 = true) ∧
      exec (.mrsIdAa64mmfr3El1 t) s = .fault (.systemAccessTrap .EL2 0x18 s)) ∨
    (s.el ≠ .EL0 ∧ (s.el = .EL1 → ¬(s.el2Enabled = true ∧ ClauseB s.config ∧ s.hcrTid3 = true)) ∧
      exec (.mrsIdAa64mmfr3El1 t) s = .next (afterRead t s)) := by
  cases hel : s.el with
  | EL0 =>
    cases hidst : s.config.FEAT_IDST with
    | false => simpa using exec_el0_of_not_idst t hel hidst
    | true =>
      by_cases htge : s.el2Enabled = true ∧ s.hcrTge = true
      · exact .inl ⟨rfl, rfl, htge, exec_el0_of_tge t hel hidst htge⟩
      · exact .inr (.inl ⟨rfl, rfl, htge, exec_el0_of_not_tge t hel hidst htge⟩)
  | EL1 =>
    by_cases htrap : s.el2Enabled = true ∧ ClauseB s.config ∧ s.hcrTid3 = true
    · exact .inr (.inr (.inr (.inl ⟨rfl, htrap, exec_el1_of_tid3 t hel htrap⟩)))
    · exact .inr (.inr (.inr (.inr ⟨nofun, fun _ => htrap, exec_el1_of_not_tid3 t hel htrap⟩)))
  | EL2 => exact .inr (.inr (.inr (.inr ⟨nofun, nofun, exec_el2 t hel⟩)))
  | EL3 => exact .inr (.inr (.inr (.inr ⟨nofun, nofun, exec_el3 t hel⟩)))

/-- The trap to EL1 is the EL0 trap that HCR_EL2.TGE does not route to EL2 (R130, R111). -/
theorem exec_eq_trapToEL1_iff (t : Nat) (s : State) :
    exec (.mrsIdAa64mmfr3El1 t) s = .fault (.systemAccessTrap .EL1 0x18 s) ↔
      s.el = .EL0 ∧ s.config.FEAT_IDST = true ∧ ¬(s.el2Enabled = true ∧ s.hcrTge = true) := by
  refine ⟨fun h => ?_, fun ⟨hel, hidst, htge⟩ => exec_el0_of_not_tge t hel hidst htge⟩
  obtain ⟨-, -, -, e⟩ | ⟨hel, hidst, htge, -⟩ | ⟨-, -, e⟩ | ⟨-, -, e⟩ | ⟨-, -, e⟩ := exec_cases t s
  case inr.inl => exact ⟨hel, hidst, htge⟩
  all_goals cases e.symm.trans h

/-- The trap to EL2 is the EL0 trap under HCR_EL2.TGE, or the EL1 trap under HCR_EL2.TID3 (R130, R111, R114). -/
theorem exec_eq_trapToEL2_iff (t : Nat) (s : State) :
    exec (.mrsIdAa64mmfr3El1 t) s = .fault (.systemAccessTrap .EL2 0x18 s) ↔
      (s.el = .EL0 ∧ s.config.FEAT_IDST = true ∧ s.el2Enabled = true ∧ s.hcrTge = true) ∨
      (s.el = .EL1 ∧ s.el2Enabled = true ∧ ClauseB s.config ∧ s.hcrTid3 = true) := by
  constructor
  · intro h
    obtain ⟨hel, hidst, htge, -⟩ | ⟨-, -, -, e⟩ | ⟨-, -, e⟩ | ⟨hel, htrap, -⟩ | ⟨-, -, e⟩ := exec_cases t s
    case inl => exact .inl ⟨hel, hidst, htge⟩
    case inr.inr.inr.inl => exact .inr ⟨hel, htrap⟩
    all_goals cases e.symm.trans h
  · rintro (⟨hel, hidst, htge⟩ | ⟨hel, htrap⟩)
    · exact exec_el0_of_tge t hel hidst htge
    · exact exec_el1_of_tid3 t hel htrap

/-- UNDEFINED is the EL0 read without FEAT_IDST (R130, R112). -/
theorem exec_eq_undefined_iff (t : Nat) (s : State) :
    exec (.mrsIdAa64mmfr3El1 t) s = .fault (.undefined s) ↔ s.el = .EL0 ∧ s.config.FEAT_IDST = false := by
  refine ⟨fun h => ?_, fun ⟨hel, hidst⟩ => exec_el0_of_not_idst t hel hidst⟩
  obtain ⟨-, -, -, e⟩ | ⟨-, -, -, e⟩ | ⟨hel, hidst, -⟩ | ⟨-, -, e⟩ | ⟨-, -, e⟩ := exec_cases t s
  case inr.inr.inl => exact ⟨hel, hidst⟩
  all_goals cases e.symm.trans h

/-- A fault of the meaning is one of the three exceptional outcomes and carries the state it was raised in (R130). -/
theorem exec_fault {i : Instr} {s : State} {f : Fault} (h : exec i s = .fault f) :
    f = .systemAccessTrap .EL1 0x18 s ∨ f = .systemAccessTrap .EL2 0x18 s ∨ f = .undefined s := by
  obtain ⟨t⟩ := i
  obtain ⟨-, -, -, e⟩ | ⟨-, -, -, e⟩ | ⟨-, -, e⟩ | ⟨-, -, e⟩ | ⟨-, -, e⟩ := exec_cases t s <;> cases e.symm.trans h
  · exact .inr (.inl rfl)
  · exact .inl rfl
  · exact .inr (.inr rfl)
  · exact .inr (.inl rfl)

/-- A step that faults ran an instruction that faults: the fetch and the decoder only refuse. -/
theorem step_fault {s : State} {f : Fault} (h : step s = .fault f) :
    ∃ bytes i rest, s.fetch = .ok bytes ∧ decode bytes = .ok (i, rest) ∧ exec i s = .fault f := by
  obtain ⟨_, -, e⟩ | ⟨_, _, -, -, e⟩ | ⟨bytes, i, rest, hf, hd, e⟩ := step_cases s
  · cases e.symm.trans h
  · cases e.symm.trans h
  · exact ⟨bytes, i, rest, hf, hd, e.symm.trans h⟩

/-- A read that answers a next state completed, at the state R110 writes out. -/
theorem exec_next {t : Nat} {s s' : State} (h : exec (.mrsIdAa64mmfr3El1 t) s = .next s') : s' = afterRead t s := by
  obtain ⟨-, -, -, e⟩ | ⟨-, -, -, e⟩ | ⟨-, -, e⟩ | ⟨-, -, e⟩ | ⟨-, -, e⟩ := exec_cases t s <;> cases e.symm.trans h
  rfl

/-- An outcome of the class `completes` is a next state. -/
theorem verdict_eq_completes_iff (o : Host.Outcome State Fault Refusal) :
    verdict o = .completes ↔ ∃ s', o = .next s' := by
  constructor
  · intro h
    match o, h with
    | .next s', _ => exact ⟨s', rfl⟩
  · rintro ⟨s', rfl⟩
    rfl

/-- Where one machine's read completes, so does the read of a machine with the same class of outcome. -/
theorem exec_next_of_verdict_eq {t : Nat} {s u s' : State}
    (hv : verdict (exec (.mrsIdAa64mmfr3El1 t) u) = verdict (exec (.mrsIdAa64mmfr3El1 t) s))
    (h : exec (.mrsIdAa64mmfr3El1 t) s = .next s') : exec (.mrsIdAa64mmfr3El1 t) u = .next (afterRead t u) := by
  obtain ⟨u', hu⟩ := (verdict_eq_completes_iff _).mp (hv.trans ((verdict_eq_completes_iff _).mpr ⟨s', h⟩))
  exact exec_next hu ▸ hu

/-- What the class of the outcome depends on: the Exception level; at EL0, FEAT_IDST and the routing to EL2; at EL1,
the three clauses of R114 taken together; at EL2 and EL3 nothing (R110). -/
theorem verdict_exec_congr {s u : State} (t : Nat) (hel : u.el = s.el)
    (hEL0 : s.el = .EL0 → u.config.FEAT_IDST = s.config.FEAT_IDST ∧
      (u.el2Enabled && u.hcrTge) = (s.el2Enabled && s.hcrTge))
    (hEL1 : s.el = .EL1 → ((u.el2Enabled = true ∧ ClauseB u.config ∧ u.hcrTid3 = true) ↔
      (s.el2Enabled = true ∧ ClauseB s.config ∧ s.hcrTid3 = true))) :
    verdict (exec (.mrsIdAa64mmfr3El1 t) u) = verdict (exec (.mrsIdAa64mmfr3El1 t) s) := by
  cases hs : s.el with
  | EL0 =>
    obtain ⟨hidst, hroute⟩ := hEL0 hs
    rw [exec_el0 t hs, exec_el0 t (hel.trans hs), hidst, hroute]
    split_ifs <;> rfl
  | EL1 =>
    have htraps := Bool.eq_iff_iff.mpr (((trapsUnderTid3_iff u).trans (hEL1 hs)).trans (trapsUnderTid3_iff s).symm)
    rw [exec_el1 t hs, exec_el1 t (hel.trans hs), htraps]
    split_ifs <;> rfl
  | EL2 => rw [exec_el2 t hs, exec_el2 t (hel.trans hs)]; rfl
  | EL3 => rw [exec_el3 t hs, exec_el3 t (hel.trans hs)]; rfl

/-- A completed read neither reads nor writes HCR_EL2.TGE. -/
theorem afterRead_hcrTge (t : Nat) (s : State) (b : Bool) :
    afterRead t { s with hcrTge := b } = { afterRead t s with hcrTge := b } := rfl

/-- A completed read neither reads nor writes HCR_EL2.TID3. -/
theorem afterRead_hcrTid3 (t : Nat) (s : State) (b : Bool) :
    afterRead t { s with hcrTid3 := b } = { afterRead t s with hcrTid3 := b } := rfl

/-- The EL0 trap to either target, in one equation (R111, R137). -/
theorem exec_el0_of_idst {s : State} (t : Nat) (hel : s.el = .EL0) (hidst : s.config.FEAT_IDST = true) :
    exec (.mrsIdAa64mmfr3El1 t) s =
      .fault (.systemAccessTrap (if s.el2Enabled = true ∧ s.hcrTge = true then .EL2 else .EL1) 0x18 s) := by
  split_ifs with htge
  · exact exec_el0_of_tge t hel hidst htge
  · exact exec_el0_of_not_tge t hel hidst htge

/-- At EL0, FEAT_IDST alone decides whether the access traps (R111, R112). -/
theorem traps_el0_iff {s : State} (t : Nat) (hel : s.el = .EL0) :
    (∃ el, verdict (exec (.mrsIdAa64mmfr3El1 t) s) = .systemAccessTrap el 0x18) ↔ s.config.FEAT_IDST = true := by
  cases hidst : s.config.FEAT_IDST with
  | false => simp [exec_el0_of_not_idst t hel hidst, verdict]
  | true => simp [exec_el0_of_idst t hel hidst, verdict]

/-- HCR_EL2.TGE is not consulted at EL1, EL2 or EL3 (R137). -/
theorem verdict_exec_hcrTge {s : State} (t : Nat) (b : Bool) (hel : s.el ≠ .EL0) :
    verdict (exec (.mrsIdAa64mmfr3El1 t) { s with hcrTge := b }) = verdict (exec (.mrsIdAa64mmfr3El1 t) s) :=
  verdict_exec_congr t rfl (fun h => absurd h hel) fun _ => Iff.rfl

/-- HCR_EL2.TID3 is not consulted at EL0, EL2 or EL3 (R138). -/
theorem verdict_exec_hcrTid3 {s : State} (t : Nat) (b : Bool) (hel : s.el ≠ .EL1) :
    verdict (exec (.mrsIdAa64mmfr3El1 t) { s with hcrTid3 := b }) = verdict (exec (.mrsIdAa64mmfr3El1 t) s) :=
  verdict_exec_congr t rfl (fun _ => ⟨rfl, rfl⟩) fun h => absurd h hel

/-- Where the register is non-zero or the implementation's choice is to trap, clause (b) holds whatever FEAT_FGT is
(R139). -/
theorem clauseB_of_not_zero_and_choice_false {c : Config}
    (h : ¬(c.IDREG = 0 ∧ c.TID3_TRAPS_WHEN_ZERO = false)) : ClauseB c := by
  by_cases hreg : c.IDREG = 0
  · exact .inr (.inr (by simpa [hreg] using h))
  · exact .inr (.inl hreg)

end Sys2Proof.Machine

namespace Sys2Proof

open Machine

/-- Settles O28: the condition of each outcome, and the faults of the meaning, which are those of a step. -/
theorem exceptionalOutcomesAreExactlyThree : Obligations.ExceptionalOutcomesAreExactlyThree := by
  refine ⟨fun s t _ => ⟨exec_eq_trapToEL1_iff t s, exec_eq_trapToEL2_iff t s, exec_eq_undefined_iff t s⟩, ?_⟩
  rintro s i f (hexec | hstep)
  · exact exec_fault hexec
  · obtain ⟨_, _, _, -, -, hexec⟩ := step_fault hstep
    exact exec_fault hexec

/-- Settles O24: at EL0 FEAT_IDST alone decides whether the access traps, and elsewhere TGE is not consulted. -/
theorem tgeOnlyRoutesTheEL0Trap : Obligations.TgeOnlyRoutesTheEL0Trap := by
  intro s t b _
  refine ⟨exec_el0_of_idst t, ?_, fun hel => ⟨verdict_exec_hcrTge t b hel, fun s' h => ?_⟩⟩
  · by_cases hel : s.el = .EL0
    · exact (traps_el0_iff t (s := { s with hcrTge := b }) hel).trans (traps_el0_iff t hel).symm
    · rw [verdict_exec_hcrTge t b hel]
  · rw [exec_next_of_verdict_eq (verdict_exec_hcrTge t b hel) h, exec_next h, afterRead_hcrTge]

/-- Settles O25: the EL1 trap of R114, and TID3 not consulted at any other level. -/
theorem tid3TrapsOnlyReadsAtEL1 : Obligations.Tid3TrapsOnlyReadsAtEL1 := by
  intro s t b _
  refine ⟨fun hel hel2 htid3 hb => exec_el1_of_tid3 t hel ⟨hel2, hb, htid3⟩,
    fun hel => ⟨verdict_exec_hcrTid3 t b hel, fun s' h => ?_⟩⟩
  rw [exec_next_of_verdict_eq (verdict_exec_hcrTid3 t b hel) h, exec_next h, afterRead_hcrTid3]

/-- Settles O26: at EL1 under TID3 the read traps exactly under clause (b), and where clause (b) is consulted outside
the one situation it holds in both machines. -/
theorem fgtActsOnlyThroughTheTid3Clause : Obligations.FgtActsOnlyThroughTheTid3Clause := by
  intro s u t _
  refine ⟨fun hel hel2 htid3 => ?_, fun hreg hidst hchoice hel hel2 htge htid3 hnot => ?_⟩
  · have htrap : exec (.mrsIdAa64mmfr3El1 t) s = .fault (.systemAccessTrap .EL2 0x18 s) ↔ ClauseB s.config := by
      simp [exec_eq_trapToEL2_iff, hel, hel2, htid3]
    rw [htrap]
    exact ⟨.inl, fun hne => .inr (.inl hne), fun hfgt hzero => by simp [ClauseB, hfgt, hzero]⟩
  · refine verdict_exec_congr t hel (fun _ => ⟨hidst, by rw [hel2, htge]⟩) fun hEL1 => ?_
    rw [hel2, htid3]
    refine and_congr_right fun hen => and_congr_left fun hon => ?_
    have hconsulted : ¬(s.config.IDREG = 0 ∧ s.config.TID3_TRAPS_WHEN_ZERO = false) :=
      fun hz => hnot ⟨hEL1, hen, hon, hz⟩
    exact iff_of_true (clauseB_of_not_zero_and_choice_false (by rwa [hreg, hchoice]))
      (clauseB_of_not_zero_and_choice_false hconsulted)

end Sys2Proof
end

section
/-! Encoding (30_encoding.md R92 to R99): the decoder accepts exactly the 32 words of the table's row, and the bytes of
an instruction are those of its word. -/

namespace Sys2Proof

/-- Where the word decodes, its bytes decode to the same instruction and leave what follows (R96). -/
theorem decode_bytesOfWord_of_ok {w : InstrWord} {i : Instr} (h : decodeWord w = .ok i) (rest : List Byte) :
    decode (bytesOfWord w ++ rest) = .ok (i, rest) := by
  simp [decode_bytesOfWord, h]

/-- Everything `decode` can accept: the four bytes of a word that decodes, and the bytes after it. -/
theorem decode_ok {bytes rest : List Byte} {i : Instr} (h : decode bytes = .ok (i, rest)) :
    ∃ w, decodeWord w = .ok i ∧ bytes = bytesOfWord w ++ rest := by
  match bytes with
  | b0 :: b1 :: b2 :: b3 :: tail =>
    cases hw : decodeWord (wordOfBytes b0 b1 b2 b3) with
    | ok j =>
      simp only [decode, hw, Except.ok.injEq, Prod.mk.injEq] at h
      obtain ⟨rfl, rfl⟩ := h
      exact ⟨_, hw, by rw [bytesOfWord_wordOfBytes]; rfl⟩
    | error why => simp [decode, hw] at h
  | [] | [_] | [_, _] | [_, _, _] => cases h

/-- R93: the word of a well-formed instruction. -/
theorem encodeWord_eq {t : Nat} (ht : t ≤ 31) : encodeWord (.mrsIdAa64mmfr3El1 t) = 0xD5380760 + BitVec.ofNat 32 t := by
  have every : ∀ r < 32, encodeWord (.mrsIdAa64mmfr3El1 r) = 0xD5380760 + BitVec.ofNat 32 r := by decide
  exact every t (by omega)

/-- R93: the decoder gives register number t for exactly the word of t. -/
theorem decodeWord_eq_ok_iff (w : InstrWord) (t : Nat) :
    decodeWord w = .ok (.mrsIdAa64mmfr3El1 t) ↔ t ≤ 31 ∧ w = 0xD5380760 + BitVec.ofNat 32 t := by
  constructor
  · intro h
    obtain ⟨hwf, hw⟩ := decodeWord_ok h
    have ht : t ≤ 31 := of_decide_eq_true hwf
    exact ⟨ht, hw.symm.trans (encodeWord_eq ht)⟩
  · rintro ⟨ht, rfl⟩
    rw [← encodeWord_eq ht]
    exact decodeWord_encodeWord (decide_eq_true ht)

/-- A word is its bits under R93's mask together with its Rt field. -/
theorem eq_masked_or_rt (w : InstrWord) : w = w &&& 0xFFFFFFE0 ||| BitVec.ofNat 32 (w.toNat % 32) := by
  have hrt : w &&& 0x1F = BitVec.ofNat 32 (w.toNat % 32) := by
    apply BitVec.eq_of_toNat_eq
    rw [BitVec.toNat_and, BitVec.toNat_ofNat, Nat.mod_eq_of_lt (by omega)]
    exact Nat.and_two_pow_sub_one_eq_mod w.toNat 5
  rw [← hrt, ← BitVec.and_or_distrib_left]
  exact (BitVec.and_allOnes).symm

/-- A word that matches under R93's mask is the word of some register number. -/
theorem exists_register_of_match {w : InstrWord} (h : w &&& 0xFFFFFFE0 = 0xD5380760) :
    ∃ t ≤ 31, w = 0xD5380760 + BitVec.ofNat 32 t := by
  have every : ∀ r < 32, (0xD5380760 ||| BitVec.ofNat 32 r : InstrWord) = 0xD5380760 + BitVec.ofNat 32 r := by decide
  have hw := eq_masked_or_rt w
  rw [h, every _ (by omega)] at hw
  exact ⟨w.toNat % 32, by omega, hw⟩

/-- R93: match 0xD5380760 under mask 0xFFFFFFE0. -/
theorem decodes_iff_match (w : InstrWord) : (∃ i, decodeWord w = .ok i) ↔ w &&& 0xFFFFFFE0 = 0xD5380760 := by
  constructor
  · rintro ⟨⟨t⟩, h⟩
    obtain ⟨-, hmatch⟩ := Laws.Encoding.mrsIdAa64mmfr3El1 t
    rwa [(decodeWord_ok h).2] at hmatch
  · intro h
    obtain ⟨t, ht⟩ := exists_register_of_match h
    exact ⟨_, (decodeWord_eq_ok_iff w t).mpr ht⟩

/-- The decoder has one way to reject a word (R99). -/
theorem decodeWord_error {w : InstrWord} {why : DecodeReject} (h : decodeWord w = .error why) :
    why = .notInThisSpec w := by
  unfold decodeWord at h
  split at h <;> cases h
  rfl

/-- R99: a word that does not match is "not in this spec". -/
theorem decodeWord_of_not_match {w : InstrWord} (h : w &&& 0xFFFFFFE0 ≠ 0xD5380760) :
    decodeWord w = .error (.notInThisSpec w) := by
  cases hw : decodeWord w with
  | ok i => exact absurd ((decodes_iff_match w).mp ⟨i, hw⟩) h
  | error why => rw [decodeWord_error hw]

/-- R92: what the decoder tests of the fields. -/
theorem decodes_iff_fields (w : InstrWord) : (∃ i, decodeWord w = .ok i) ↔
    (splitWord w).fixed = sysregFixed ∧ (splitWord w).L = 1 ∧ (splitWord w).location = idAa64mmfr3El1Location := by
  unfold decodeWord
  split_ifs with h
  · exact iff_of_true ⟨_, rfl⟩ h
  · exact iff_of_false nofun h

/-- Settles O1: the word of a well-formed instruction decodes to it, and its bytes decode as the word does. -/
theorem decodeOfEncodeGivesInstructionBack : Obligations.DecodeOfEncodeGivesInstructionBack :=
  fun _ rest hwf => decode_bytesOfWord_of_ok (decodeWord_encodeWord hwf) rest

/-- Settles O2: what decodes is the bytes of a word that decodes, and such a word is an instruction's. -/
theorem encodeOfDecodeGivesBytesBack : Obligations.EncodeOfDecodeGivesBytesBack := by
  intro bytes rest i h
  obtain ⟨w, hw, rfl⟩ := decode_ok h
  obtain ⟨hwf, henc⟩ := decodeWord_ok hw
  exact ⟨hwf, by rw [encode, henc]⟩

/-- Settles O3: the word of each register number, and the same set of words by the mask and one by one. -/
theorem decoderAcceptsExactlyTheTableRow : Obligations.DecoderAcceptsExactlyTheTableRow :=
  ⟨fun _ => encodeWord_eq, decodes_iff_match, decodeWord_eq_ok_iff⟩

/-- Settles O4: each field the decoder tests, as the number in its position. -/
theorem decoderReadsTheFormatFields : Obligations.DecoderReadsTheFormatFields := by
  intro w
  have hfixed : w.toNat / 2 ^ 22 % 2 ^ 10 = w.toNat / 2 ^ 22 := Nat.mod_eq_of_lt (by have := w.isLt; omega)
  rw [decodes_iff_fields]
  simp only [splitWord, sysregFixed, idAa64mmfr3El1Location, SysRegLocation.mk.injEq, ← BitVec.toNat_inj,
    BitVec.extractLsb'_toNat, Nat.shiftRight_eq_div_pow, hfixed]
  rfl

/-- Settles O5: the tabulated words, decoded. -/
theorem sampleWordsDecodeAsTabulated : Obligations.SampleWordsDecodeAsTabulated :=
  ⟨rfl, rfl, rfl, rfl, rfl⟩

/-- Settles O6: no word of the write direction matches under the mask of R93. -/
theorem writeDirectionIsNotInThisSpec : Obligations.WriteDirectionIsNotInThisSpec := by
  intro t ht
  have every : ∀ r < 32, (0xD5180760 + BitVec.ofNat 32 r : InstrWord) &&& 0xFFFFFFE0 ≠ 0xD5380760 := by decide
  exact decodeWord_of_not_match (every t (by omega))

end Sys2Proof
end

section
/-! Fetch and step (20_memory.md R75, R76; 30_encoding.md R99; 70_reset_and_hazards.md R168): what the four bytes at `pc`
make of a step. -/

namespace Sys2Proof.Machine

/-- A misaligned `pc` cannot be fetched at (R76). -/
theorem fetch_of_not_aligned {s : State} (h : isAligned s.pc = false) : s.fetch = .error .misalignedPc := by
  simp [State.fetch, h]

/-- The fetched bytes, each read at its own address. -/
theorem readByte_of_fetch_ok {s : State} {bytes : List Byte} (h : s.fetch = .ok bytes) {k : Nat} (hk : k < 4) :
    s.text.readByte (s.pc + BitVec.ofNat 64 k).toNat = bytes[k]? ∧ bytes[k]? ≠ none := by
  obtain ⟨-, b0, b1, b2, b3, rfl, h0, h1, h2, h3⟩ := fetch_ok h
  interval_cases k
  · exact ⟨by rw [BitVec.add_zero]; exact h0, nofun⟩
  · exact ⟨h1, nofun⟩
  · exact ⟨h2, nofun⟩
  · exact ⟨h3, nofun⟩

/-- No word is fetched where one of its four bytes is not in the program text (R168). -/
theorem fetch_of_byte_missing {s : State} (ha : isAligned s.pc = true) {k : Nat} (hk : k < 4)
    (h : s.text.readByte (s.pc + BitVec.ofNat 64 k).toNat = none) : s.fetch = .error .outsideProgramText := by
  cases hf : s.fetch with
  | ok bytes =>
    obtain ⟨hread, hpresent⟩ := readByte_of_fetch_ok hf hk
    exact absurd (hread.symm.trans h) hpresent
  | error r =>
    obtain ⟨hna, -⟩ | ⟨-, rfl⟩ := fetch_error hf
    · simp [ha] at hna
    · rfl

/-- The fetch of a word that stands in the program text at an aligned `pc`, byte by byte (R75). -/
theorem fetch_of_bytesOfWord {s : State} {w : InstrWord} (ha : isAligned s.pc = true)
    (h : ∀ j < 4, s.text.readByte (s.pc + BitVec.ofNat 64 j).toNat = (bytesOfWord w)[j]?) :
    s.fetch = .ok (bytesOfWord w) := by
  have h0 := h 0 (by decide)
  rw [BitVec.add_zero] at h0
  exact fetch_eq_ok ha h0 (h 1 (by decide)) (h 2 (by decide)) (h 3 (by decide))

/-- A refused fetch is a refused step. -/
theorem step_of_fetch_error {s : State} {r : Refusal} (h : s.fetch = .error r) : step s = .refused r := by
  simp [step, h]

/-- A step runs the instruction that the word it fetches decodes to (R120). -/
theorem step_of_decodeWord_ok {s : State} {w : InstrWord} {i : Instr} (hf : s.fetch = .ok (bytesOfWord w))
    (hw : decodeWord w = .ok i) : step s = exec i s := by
  have hd : decode (bytesOfWord w) = .ok (i, []) := by simpa using decode_bytesOfWord_of_ok hw []
  simp [step, hf, hd]

/-- A step is refused on a word that does not decode (R99). -/
theorem step_of_decodeWord_error {s : State} {w : InstrWord} {why : DecodeReject} (hf : s.fetch = .ok (bytesOfWord w))
    (hw : decodeWord w = .error why) : step s = .refused (.undecodable why) := by
  have hd : decode (bytesOfWord w) = .error why := by simpa [hw] using decode_bytesOfWord w []
  simp [step, hf, hd]

/-- Every fetch reads the bytes of one word (R96). -/
theorem fetch_eq_bytesOfWord {s : State} {bytes : List Byte} (h : s.fetch = .ok bytes) :
    ∃ w, bytes = bytesOfWord w := by
  obtain ⟨-, b0, b1, b2, b3, rfl, -⟩ := fetch_ok h
  exact ⟨_, (bytesOfWord_wordOfBytes b0 b1 b2 b3).symm⟩

/-- Everything a step can do, in terms of the word it fetches (R120, R99, R168). -/
theorem step_cases_word (s : State) :
    (∃ r, s.fetch = .error r ∧ step s = .refused r) ∨
    (∃ w, s.fetch = .ok (bytesOfWord w) ∧ step s = .refused (.undecodable (.notInThisSpec w))) ∨
    (∃ w t, s.fetch = .ok (bytesOfWord w) ∧ decodeWord w = .ok (.mrsIdAa64mmfr3El1 t) ∧
      step s = exec (.mrsIdAa64mmfr3El1 t) s) := by
  cases hf : s.fetch with
  | error r => exact .inl ⟨r, rfl, step_of_fetch_error hf⟩
  | ok bytes =>
    obtain ⟨w, rfl⟩ := fetch_eq_bytesOfWord hf
    cases hw : decodeWord w with
    | ok i =>
      obtain ⟨t⟩ := i
      exact .inr (.inr ⟨w, t, rfl, hw, step_of_decodeWord_ok hf hw⟩)
    | error why =>
      refine .inr (.inl ⟨w, rfl, ?_⟩)
      rw [step_of_decodeWord_error hf hw, decodeWord_error hw]

/-- The meaning refuses nothing: every instruction of the table is modelled. -/
theorem exec_ne_refused (i : Instr) (s : State) (r : Refusal) : exec i s ≠ .refused r := by
  obtain ⟨t⟩ := i
  intro h
  obtain ⟨-, -, -, e⟩ | ⟨-, -, -, e⟩ | ⟨-, -, e⟩ | ⟨-, -, e⟩ | ⟨-, -, e⟩ := exec_cases t s <;> cases e.symm.trans h

/-- A refused step has one of three names (R76, R99, R168). -/
theorem step_refused {s : State} {r : Refusal} (h : step s = .refused r) :
    r = .misalignedPc ∨ r = .outsideProgramText ∨ ∃ w, r = .undecodable (.notInThisSpec w) := by
  obtain ⟨r', hf, e⟩ | ⟨w, -, e⟩ | ⟨w, t, -, -, e⟩ := step_cases_word s
  · cases e.symm.trans h
    obtain ⟨-, rfl⟩ | ⟨-, rfl⟩ := fetch_error hf
    · exact .inl rfl
    · exact .inr (.inl rfl)
  · cases e.symm.trans h
    exact .inr (.inr ⟨w, rfl⟩)
  · exact absurd (e.symm.trans h) (exec_ne_refused _ s r)

/-- The word placed by `withFetchWord` is the word the next step fetches (log 10). -/
theorem fetch_withFetchWord (s : State) (nbits w : Nat) :
    (s.withFetchWord nbits w).fetch = .ok (bytesOfWord (tableWord nbits w)) := by
  obtain ⟨h0, h1, h2, h3⟩ := Memory.readByte_writeBytes_four s.text (alignDown s.pc) ..
  exact fetch_eq_ok (isAligned_alignDown s.pc) h0 h1 h2 h3

end Sys2Proof.Machine

namespace Sys2Proof

open Machine

/-- The number of a word is the sum of its bytes, the lowest address first (R75). -/
theorem toNat_wordOfBytes (b0 b1 b2 b3 : Byte) :
    (wordOfBytes b0 b1 b2 b3).toNat = b0.toNat + 2 ^ 8 * b1.toNat + 2 ^ 16 * b2.toNat + 2 ^ 24 * b3.toNat := by
  rw [wordOfBytes, BitVec.toNat_append, BitVec.toNat_append, BitVec.toNat_append,
    ← Nat.shiftLeft_add_eq_or_of_lt b0.isLt, ← Nat.shiftLeft_add_eq_or_of_lt b1.isLt,
    ← Nat.shiftLeft_add_eq_or_of_lt b2.isLt]
  simp only [Nat.shiftLeft_eq]
  omega

/-- The table's word of a register number, as opcode_table.json numbers its bits. -/
theorem tableWord_eq {t : Nat} (ht : t ≤ 31) : tableWord 32 (0xD5380760 + t) = 0xD5380760 + BitVec.ofNat 32 t := by
  rw [tableWord, Nat.mod_eq_of_lt (by omega), BitVec.ofNat_add]
  rfl

/-- Settles O8: four bytes with the sum of the row's word for t are its word's bytes. -/
theorem instructionWordsAreLittleEndian : Obligations.InstructionWordsAreLittleEndian := by
  intro s b0 b1 b2 b3 t ha h0 h1 h2 h3 ht hsum
  have hword : wordOfBytes b0 b1 b2 b3 = 0xD5380760 + BitVec.ofNat 32 t := by
    rw [← tableWord_eq ht]
    apply BitVec.eq_of_toNat_eq
    rw [toNat_wordOfBytes, hsum, tableWord, BitVec.toNat_ofNat]
    omega
  have hf := fetch_eq_ok ha h0 h1 h2 h3
  rw [← bytesOfWord_wordOfBytes] at hf
  exact step_of_decodeWord_ok hf ((decodeWord_eq_ok_iff _ t).mpr ⟨ht, hword⟩)

/-- Settles O9: a word that does not match is fetched and does not decode. -/
theorem stepRefusesWordsOutsideTheTable : Obligations.StepRefusesWordsOutsideTheTable := by
  intro s b0 b1 b2 b3 ha h0 h1 h2 h3 hmatch
  have hf := fetch_eq_ok ha h0 h1 h2 h3
  rw [← bytesOfWord_wordOfBytes] at hf
  exact step_of_decodeWord_error hf (decodeWord_of_not_match hmatch)

/-- Settles O11: a missing byte refuses the fetch, and a refused fetch the step. -/
theorem stepRefusesOutsideTheProgramText : Obligations.StepRefusesOutsideTheProgramText := by
  intro s k ha hk hnone
  exact step_of_fetch_error (fetch_of_byte_missing (by simpa [isAligned_eq] using ha) hk hnone)

/-- Settles O12: a fault is the meaning's, a refusal the fetch's or the decoder's. -/
theorem stepStopsOnlyInNamedWays : Obligations.StepStopsOnlyInNamedWays := by
  refine fun s => ⟨fun f h => ?_, fun r => step_refused⟩
  obtain ⟨_, _, _, -, -, hexec⟩ := step_fault h
  exact exec_fault hexec

/-- Settles O13: the placed word is fetched, and it is the row's. -/
theorem stepRunsThePlacedWord : Obligations.StepRunsThePlacedWord :=
  fun s t ht => step_of_decodeWord_ok (fetch_withFetchWord s _ _) ((decodeWord_eq_ok_iff _ t).mpr ⟨ht, tableWord_eq ht⟩)

/-- Settles O7: the fetch, the decoder and then the meaning. -/
theorem stepRunsTheDecodedInstruction : Obligations.StepRunsTheDecodedInstruction := by
  intro s b0 b1 b2 b3 i rest ha h0 h1 h2 h3 hd
  simp only [step, fetch_eq_ok ha h0 h1 h2 h3, hd]

/-- Settles O10: a `pc` that is no multiple of 4 refuses the fetch, and a refused fetch the step. -/
theorem stepRefusesMisalignedPc : Obligations.StepRefusesMisalignedPc :=
  fun _ h => step_of_fetch_error (fetch_of_not_aligned (by simpa [isAligned_eq] using h))

/-- Settles O29: a step that faults ran the row's instruction, whose faults carry the state they were raised in. -/
theorem exceptionalOutcomesArePrecise : Obligations.ExceptionalOutcomesArePrecise := by
  intro s f h
  obtain ⟨_, -, e⟩ | ⟨_, -, e⟩ | ⟨w, t, hf, hw, e⟩ := step_cases_word s
  · cases e.symm.trans h
  · cases e.symm.trans h
  · refine ⟨?_, bytesOfWord w, t, hf, by simpa using decode_bytesOfWord_of_ok hw []⟩
    obtain rfl | rfl | rfl := exec_fault (e.symm.trans h) <;> rfl

end Sys2Proof
end

section
/-! What the accessor decides and what it writes (40_mrs_id_aa64mmfr3.md R111 to R125): the class of its outcome as a
function of six inputs, and the registers one by one after a read that completes. -/

namespace Sys2Proof.Machine

/-- The class of the accessor's outcome, of the inputs R118's table has columns for: `PSTATE.EL`, FEAT_IDST,
`EL2Enabled`, HCR_EL2.TGE, clause (b) of R114 and HCR_EL2.TID3. `verdict_exec` ties it to `exec`. -/
def accessorVerdict (el : EL) (idst el2Enabled tge b tid3 : Bool) : Verdict :=
  match el with
  | .EL0 =>
    if idst then if el2Enabled && tge then .systemAccessTrap .EL2 0x18 else .systemAccessTrap .EL1 0x18
    else .undefined
  | .EL1 => if el2Enabled && b && tid3 then .systemAccessTrap .EL2 0x18 else .completes
  | .EL2 => .completes
  | .EL3 => .completes

/-- The accessor's outcome is classed by six inputs, the register number and the register's value not among them. -/
theorem verdict_exec (t : Nat) (s : State) :
    verdict (exec (.mrsIdAa64mmfr3El1 t) s) =
      accessorVerdict s.el s.config.FEAT_IDST s.el2Enabled s.hcrTge (tid3CoversEncoding s.config) s.hcrTid3 := by
  cases hel : s.el with
  | EL0 => rw [exec_el0 t hel]; simp only [accessorVerdict]; split_ifs <;> rfl
  | EL1 => rw [exec_el1 t hel]; simp only [accessorVerdict]; split_ifs <;> rfl
  | EL2 => rw [exec_el2 t hel]; rfl
  | EL3 => rw [exec_el3 t hel]; rfl

/-- Whether a row of R118's table applies, of the six inputs. -/
def DecisionRow.appliesTo (r : DecisionRow) (el : EL) (idst el2Enabled tge b tid3 : Bool) : Bool :=
  r.el == el && agrees r.featIdst idst && agrees r.el2Enabled el2Enabled && agrees r.tge tge && agrees r.b b &&
  agrees r.tid3 tid3

/-- A row applies in a state as it applies to the state's six inputs. -/
theorem DecisionRow.applies_eq (s : State) : (fun r : DecisionRow => r.applies s) = fun r =>
    r.appliesTo s.el s.config.FEAT_IDST s.el2Enabled s.hcrTge (tid3CoversEncoding s.config) s.hcrTid3 := rfl

/-- R118: of every combination of the six inputs there is one applying row, and it has the accessor's class. -/
theorem decisionTable_filter (el : EL) (idst el2Enabled tge b tid3 : Bool) :
    ∃ r ∈ decisionTable, decisionTable.filter (fun r => r.appliesTo el idst el2Enabled tge b tid3) = [r] ∧
      accessorVerdict el idst el2Enabled tge b tid3 = r.outcome := by
  cases el <;> revert idst el2Enabled tge b tid3 <;> decide

/-- A completed read writes the destination and then moves the pc (R110). -/
theorem afterRead_eq (t : Nat) (s : State) : afterRead t s = (s.writeX t s.config.IDREG).advancePc :=
  completeRead_next (completeRead_eq_next_afterRead t s)

/-- A completed read delivers IDREG (R122). -/
theorem readX_afterRead_self (s : State) {t : Nat} (ht : t < 31) : (afterRead t s).readX t = s.config.IDREG := by
  rw [afterRead_eq, State.readX_advancePc, State.readX_writeX_self s ht]

/-- A completed read leaves every register but its destination (R119). -/
theorem readX_afterRead_other (s : State) {t i : Nat} (h : i ≠ t) : (afterRead t s).readX i = s.readX i := by
  rw [afterRead_eq, State.readX_advancePc, State.readX_writeX_other s h.symm]

/-- A read into the zero register moves the pc only (R123). -/
theorem afterRead_zeroRegister (s : State) : afterRead 31 s = { s with pc := s.pc + 4 } := rfl

/-- What a completed read does not write (R119, R82). -/
theorem sameOutside_afterRead (t : Nat) (s : State) : SameOutside s (afterRead t s) :=
  ⟨rfl, rfl, rfl, rfl, rfl, fun _ => rfl⟩

/-- The old value of the destination is overwritten (R124). -/
theorem afterRead_writeX (s : State) {t : Nat} (ht : t < 31) (old : Word) :
    afterRead t (s.writeX t old) = afterRead t s := by
  simp [afterRead, State.writeX_lt s ht, ht]

/-- Nothing completes at EL0 (R113). -/
theorem exec_ne_next_of_el0 {s : State} (hel : s.el = .EL0) (i : Instr) (s' : State) : exec i s ≠ .next s' := by
  obtain ⟨t⟩ := i
  rw [exec_el0 t hel]
  split_ifs <;> nofun

/-- No step completes at EL0 (R113). -/
theorem step_ne_next_of_el0 {s : State} (hel : s.el = .EL0) (s' : State) : step s ≠ .next s' := by
  intro h
  obtain ⟨_, i, _, -, -, hexec⟩ := step_next h
  exact exec_ne_next_of_el0 hel i s' hexec

/-- Without `EL2Enabled` neither field of HCR_EL2 is consulted (R143, R55). -/
theorem verdict_exec_hcr {s : State} (t : Nat) (tge tid3 : Bool) (hel2 : s.el2Enabled = false) :
    verdict (exec (.mrsIdAa64mmfr3El1 t) { s with hcrTge := tge, hcrTid3 := tid3 }) =
      verdict (exec (.mrsIdAa64mmfr3El1 t) s) :=
  verdict_exec_congr t rfl (fun _ => ⟨rfl, by simp [hel2]⟩) fun _ => by simp [hel2]

/-- The implementation's choice to trap makes clause (b) true (R115). -/
theorem clauseB_withTrapsWhenZero_true (s : State) : ClauseB (withTrapsWhenZero true s).config :=
  .inr (.inr rfl)

/-- With the choice not to trap, clause (b) is up to FEAT_FGT and the register (R115). -/
theorem clauseB_withTrapsWhenZero_false (s : State) :
    ClauseB (withTrapsWhenZero false s).config ↔ s.config.FEAT_FGT = true ∨ s.config.IDREG ≠ 0 := by
  simp [ClauseB, withTrapsWhenZero]

/-- With the choice to trap, an EL1 read under HCR_EL2.TID3 traps (R115). -/
theorem exec_withTrapsWhenZero_true {s : State} (t : Nat) (hel : s.el = .EL1) (hel2 : s.el2Enabled = true)
    (htid3 : s.hcrTid3 = true) :
    exec (.mrsIdAa64mmfr3El1 t) (withTrapsWhenZero true s) =
      .fault (.systemAccessTrap .EL2 0x18 (withTrapsWhenZero true s)) :=
  exec_el1_of_tid3 t hel ⟨hel2, clauseB_withTrapsWhenZero_true s, htid3⟩

/-- With the choice not to trap, an EL1 read of a zero register completes without FEAT_FGT (R115). -/
theorem exec_withTrapsWhenZero_false {s : State} (t : Nat) (hel : s.el = .EL1) (hfgt : s.config.FEAT_FGT = false)
    (hzero : s.config.IDREG = 0) :
    exec (.mrsIdAa64mmfr3El1 t) (withTrapsWhenZero false s) = .next (afterRead t (withTrapsWhenZero false s)) := by
  refine exec_el1_of_not_tid3 t hel fun ⟨_, hb, _⟩ => ?_
  simp [clauseB_withTrapsWhenZero_false, hfgt, hzero] at hb

end Sys2Proof.Machine

namespace Sys2Proof

open Machine

/-- Settles O21: the outcome's class and the table are functions of the same six inputs, and agree on all of them. -/
theorem outcomeFollowsTheDecisionTable : Obligations.OutcomeFollowsTheDecisionTable := by
  intro s t _
  obtain ⟨r, -, hrow, hout⟩ := decisionTable_filter s.el s.config.FEAT_IDST s.el2Enabled s.hcrTge
    (tid3CoversEncoding s.config) s.hcrTid3
  rw [DecisionRow.applies_eq, verdict_exec]
  exact ⟨r, hrow, hout⟩

/-- Settles O22: in the situation the two choices are the two branches of EL1; outside it clause (b) is not consulted, or
holds by either choice. -/
theorem implementationDefinedBooleanDecidesOneSituation :
    Obligations.ImplementationDefinedBooleanDecidesOneSituation := by
  intro s t _
  refine ⟨⟨fun hne => ?_, ?_⟩, ?_⟩
  · by_contra hout
    refine hne (verdict_exec_congr t rfl (fun _ => ⟨rfl, rfl⟩) fun hel => ?_)
    refine and_congr_right fun hel2 => and_congr_left fun htid3 =>
      iff_of_true (clauseB_withTrapsWhenZero_true s) ((clauseB_withTrapsWhenZero_false s).mpr ?_)
    by_contra hb
    simp only [not_or, Bool.not_eq_true, not_not] at hb
    exact hout ⟨hel, hel2, htid3, hb⟩
  · rintro ⟨hel, hel2, htid3, hfgt, hzero⟩
    rw [exec_withTrapsWhenZero_true t hel hel2 htid3, exec_withTrapsWhenZero_false t hel hfgt hzero]
    nofun
  · rintro ⟨hel, hel2, htid3, hfgt, hzero⟩
    exact ⟨exec_withTrapsWhenZero_true t hel hel2 htid3, exec_withTrapsWhenZero_false t hel hfgt hzero,
      fun ht => (readX_afterRead_self _ ht).trans hzero⟩

/-- Settles O20: a run of one step or more begins with a step that completes. -/
theorem nothingCompletesAtEL0 : Obligations.NothingCompletesAtEL0 := by
  refine ⟨fun s s' hel => step_ne_next_of_el0 hel s', fun n s s' hel hrun => ?_⟩
  cases n with
  | zero => rfl
  | succ n =>
    obtain ⟨u, hstep, -⟩ := hrun
    exact absurd hstep (step_ne_next_of_el0 hel u)

/-- Settles O23: at EL0 the class is a function of FEAT_IDST, `EL2Enabled` and TGE. -/
theorem outcomeAtEL0DoesNotDependOnTheRegister : Obligations.OutcomeAtEL0DoesNotDependOnTheRegister := by
  intro s u t v hs hu hidst hel2 htge
  rw [verdict_exec, verdict_exec, hs, hu, hidst, hel2, htge]
  rfl

/-- Settles O27: each branch with `EL2Enabled` false, and HCR_EL2 not consulted in any. -/
theorem hcrIsNotConsultedWithoutEL2Enabled : Obligations.HcrIsNotConsultedWithoutEL2Enabled := by
  intro s t tge tid3 _ hel2
  refine ⟨fun hel => exec_el1_of_not_tid3 t hel (by simp [hel2]),
    fun hel hidst => exec_el0_of_not_tge t hel hidst (by simp [hel2]), verdict_exec_hcr t tge tid3 hel2, fun s' h => ?_⟩
  rw [exec_next_of_verdict_eq (verdict_exec_hcr t tge tid3 hel2) h, exec_next h]
  rfl

/-- Settles O19: the state after a completed read, at the destination and at the pc. -/
theorem completedReadDeliversIdregAndAdvancesPc : Obligations.CompletedReadDeliversIdregAndAdvancesPc := by
  intro s s' t ht h
  rw [exec_next h]
  exact ⟨readX_afterRead_self s ht, BitVec.toNat_add s.pc 4⟩

/-- Settles O30: the state after a completed read, everywhere else. -/
theorem readChangesOnlyItsDestination : Obligations.ReadChangesOnlyItsDestination := by
  intro s s' t h
  rw [exec_next h]
  exact ⟨fun i hi => readX_afterRead_other s hi, sameOutside_afterRead t s⟩

/-- Settles O31: the class does not depend on the register number, and the write to number 31 is discarded. -/
theorem writeToTheZeroRegisterIsDiscarded : Obligations.WriteToTheZeroRegisterIsDiscarded := by
  intro s t _
  have hsame : verdict (exec (.mrsIdAa64mmfr3El1 31) s) = verdict (exec (.mrsIdAa64mmfr3El1 t) s) := by
    rw [verdict_exec, verdict_exec]
  refine ⟨hsame, fun hcompletes => ?_⟩
  obtain ⟨s', h⟩ := (verdict_eq_completes_iff _).mp (hsame.trans hcompletes)
  rw [h, exec_next h, afterRead_zeroRegister]

/-- Settles O32: the old value is no input of the class, and a completed read overwrites it. -/
theorem oldDestinationValueHasNoInfluence : Obligations.OldDestinationValueHasNoInfluence := by
  intro s s' t old ht
  have hsame : verdict (exec (.mrsIdAa64mmfr3El1 t) (s.writeX t old)) = verdict (exec (.mrsIdAa64mmfr3El1 t) s) := by
    simp only [verdict_exec, State.writeX_config, State.writeX_el, State.writeX_el2Enabled, State.writeX_hcrTge,
      State.writeX_hcrTid3]
  refine ⟨hsame, fun h => ?_, fun h => ?_⟩
  · rw [exec_next_of_verdict_eq hsame.symm h, exec_next h, afterRead_writeX s ht]
  · rw [exec_next_of_verdict_eq hsame h, exec_next h, afterRead_writeX s ht]

/-- Settles O33: each of the two reads delivers the IDREG of the one configuration. -/
theorem successfulReadsAgree : Obligations.SuccessfulReadsAgree := by
  intro s s' u u' t v ht hv hconfig hs hu
  rw [exec_next hs, exec_next hu, readX_afterRead_self s ht, readX_afterRead_self u hv, hconfig]
  exact ⟨rfl, rfl⟩

end Sys2Proof
end

section
/-! Steps and runs (70_reset_and_hazards.md R160 to R168): what a step leaves, the invariant, and runs of n steps. -/

namespace Sys2Proof.Machine

/-- A step that completes is a completed read into some register (R110). -/
theorem step_next_eq_afterRead {s s' : State} (h : step s = .next s') : ∃ t, s' = afterRead t s := by
  obtain ⟨_, ⟨t⟩, _, -, -, hexec⟩ := step_next h
  exact ⟨t, exec_next hexec⟩

/-- A completed read keeps the invariant: the pc moves by 4 and the program text is not written. -/
theorem inv_afterRead {s : State} (t : Nat) (h : Inv s) : Inv (afterRead t s) :=
  ⟨(isAligned_add_four s.pc).trans h.aligned, h.textWf⟩

/-- A register after a completed read holds its old value or IDREG (R119). -/
theorem readX_afterRead (t i : Nat) (s : State) :
    (afterRead t s).readX i = s.readX i ∨ (afterRead t s).readX i = s.config.IDREG := by
  by_cases hi : i = t
  · subst hi
    by_cases ht : i < 31
    · exact .inr (readX_afterRead_self s ht)
    · rw [State.readX_ge _ (Nat.not_lt.mp ht), State.readX_ge _ (Nat.not_lt.mp ht)]
      exact .inl rfl
  · exact .inl (readX_afterRead_other s hi)

theorem SameOutside.refl (s : State) : SameOutside s s :=
  ⟨rfl, rfl, rfl, rfl, rfl, fun _ => rfl⟩

theorem SameOutside.trans {s u s' : State} (h : SameOutside s u) (h' : SameOutside u s') : SameOutside s s' :=
  ⟨h'.config.trans h.config, h'.el.trans h.el, h'.el2Enabled.trans h.el2Enabled, h'.hcrTge.trans h.hcrTge,
    h'.hcrTid3.trans h.hcrTid3, fun a => (h'.text a).trans (h.text a)⟩

/-- At EL2 and EL3 the read completes whatever the rest of the state (R116, R117). -/
theorem exec_el2_or_el3 {s : State} (t : Nat) (hel : s.el = .EL2 ∨ s.el = .EL3) :
    exec (.mrsIdAa64mmfr3El1 t) s = .next (afterRead t s) :=
  hel.elim (exec_el2 t) (exec_el3 t)

/-- At EL2 and EL3 a step completes where an accessor word stands at an aligned `pc` (R163). -/
theorem step_el2_or_el3 {s : State} {t : Nat} (hel : s.el = .EL2 ∨ s.el = .EL3) (ha : isAligned s.pc = true)
    (ht : t ≤ 31)
    (h : ∀ j < 4, s.text.readByte (s.pc + BitVec.ofNat 64 j).toNat = (encode (.mrsIdAa64mmfr3El1 t))[j]?) :
    step s = .next (afterRead t s) := by
  have hdec : decodeWord (encodeWord (.mrsIdAa64mmfr3El1 t)) = .ok (.mrsIdAa64mmfr3El1 t) :=
    decodeWord_encodeWord (decide_eq_true ht)
  rw [step_of_decodeWord_ok (fetch_of_bytesOfWord ha h) hdec, exec_el2_or_el3 t hel]

/-- An offset counted from the next word. -/
theorem add_four_add_ofNat (a : Word) (n : Nat) : a + 4 + BitVec.ofNat 64 n = a + BitVec.ofNat 64 (4 + n) := by
  rw [BitVec.add_assoc, BitVec.ofNat_add]
  rfl

end Sys2Proof.Machine

namespace Sys2Proof

open Machine

/-- Settles O34: a step that completes is a completed read, which keeps the invariant. -/
theorem stepKeepsInvariant : Obligations.StepKeepsInvariant := by
  intro s s' hinv h
  obtain ⟨t, rfl⟩ := step_next_eq_afterRead h
  exact inv_afterRead t hinv

/-- Settles O37, by induction on the number of steps: each is a completed read under the same configuration. -/
theorem runsChangeOnlyRegistersToIdregAndPc : Obligations.RunsChangeOnlyRegistersToIdregAndPc := by
  intro n
  induction n with
  | zero =>
    rintro _ s rfl
    exact ⟨.refl s, (BitVec.add_zero s.pc).symm, fun _ => .inl rfl⟩
  | succ n ih =>
    rintro s s' ⟨u, hstep, hrun⟩
    obtain ⟨t, rfl⟩ := step_next_eq_afterRead hstep
    obtain ⟨hsame, hpc, hreg⟩ := ih _ s' hrun
    refine ⟨(sameOutside_afterRead t s).trans hsame, ?_, fun i => ?_⟩
    · calc s'.pc = s.pc + 4 + BitVec.ofNat 64 (4 * n) := hpc
        _ = s.pc + BitVec.ofNat 64 (4 * (n + 1)) := by rw [add_four_add_ofNat, Nat.mul_succ, Nat.add_comm]
    · obtain hold | hidreg := hreg i
      · rw [hold]
        exact readX_afterRead t i s
      · exact .inr hidreg

/-- Settles O38, by induction on the number of words: the first step completes, and the rest stand 4 further. -/
theorem readsAtEL2AndEL3NeedNoInitialisation : Obligations.ReadsAtEL2AndEL3NeedNoInitialisation := by
  intro n
  induction n with
  | zero => exact fun s _ _ _ => ⟨s, rfl⟩
  | succ n ih =>
    intro s hel ha hwords
    obtain ⟨t, ht, hfirst⟩ := hwords 0 (Nat.succ_pos n)
    have hstep : step s = .next (afterRead t s) := step_el2_or_el3 hel ha ht (by simpa using hfirst)
    obtain ⟨s', hrun⟩ := ih (afterRead t s) hel ((isAligned_add_four s.pc).trans ha) fun k hk => by
      obtain ⟨v, hv, hnext⟩ := hwords (k + 1) (Nat.succ_lt_succ hk)
      refine ⟨v, hv, fun j hj => ?_⟩
      rw [← hnext j hj, show 4 * (k + 1) + j = 4 + (4 * k + j) by omega, ← add_four_add_ofNat]
      rfl
    exact ⟨s', afterRead t s, hstep, hrun⟩

/-- Settles O35: the launch pc is a multiple of 4, and no program is loaded. -/
theorem resetMeetsInvariant : Obligations.ResetMeetsInvariant :=
  ⟨by decide, .nil, nofun⟩

/-- Settles O36: a reset holds the implementation's constant, and a `Config` carries its legality. -/
theorem resetLeavesTheConfiguration : Obligations.ResetLeavesTheConfiguration :=
  ⟨rfl, State.reset.config.legal⟩

end Sys2Proof
end

section
/-! Launch (70_reset_and_hazards.md R161, R162; 92_eei_decisions.md D10): when a run starts, in which state, and where
the words of its program stand. -/

namespace Sys2Proof.Machine

/-- Everything a launch that starts says: its two premises, and the state it names. -/
theorem launch_next {l : Launch} {s : State} (h : launch l = .next s) :
    l.parameters.isLegal = true ∧ isAligned l.pc = true ∧ s.text = Memory.loadWords [] l.pc l.program ∧
      s.config.toParameters = l.parameters ∧ s.x = l.x ∧ s.pc = l.pc ∧ s.el = l.el ∧ s.el2Enabled = l.el2Enabled ∧
      s.hcrTge = l.hcrTge ∧ s.hcrTid3 = l.hcrTid3 := by
  unfold launch at h
  split_ifs at h with hlegal haligned
  cases h
  exact ⟨hlegal, haligned, rfl, rfl, rfl, rfl, rfl, rfl, rfl, rfl⟩

/-- A legal and aligned launch starts (R162, R76). -/
theorem launch_starts {l : Launch} (hlegal : l.parameters.isLegal = true) (haligned : isAligned l.pc = true) :
    ∃ s, launch l = .next s := by
  rw [launch, dif_pos hlegal, if_pos haligned]
  exact ⟨_, rfl⟩

/-- A configuration that is not legal is refused (R162). -/
theorem launch_of_illegal {l : Launch} (hlegal : l.parameters.isLegal = false) :
    launch l = .refused .illegalConfiguration := by
  rw [launch, dif_neg (Bool.eq_false_iff.mp hlegal)]

/-- A launch at a misaligned `pc` is refused (R76). -/
theorem launch_of_misaligned {l : Launch} (hlegal : l.parameters.isLegal = true) (hpc : isAligned l.pc = false) :
    launch l = .refused .misalignedPc := by
  rw [launch, dif_pos hlegal, if_neg (Bool.eq_false_iff.mp hpc)]

/-- A launch starts in a state that meets the invariant. -/
theorem inv_of_launch {l : Launch} {s : State} (h : launch l = .next s) : Inv s := by
  obtain ⟨-, haligned, htext, -, -, hpc, -⟩ := launch_next h
  exact ⟨hpc ▸ haligned, htext ▸ Memory.wf_loadWords l.pc l.program ⟨.nil, nofun⟩⟩

/-- Every word's address is aligned when the first one is (R76). -/
theorem isAligned_add_mul_four (a : Word) (k : Nat) : isAligned (a + BitVec.ofNat 64 (4 * k)) = isAligned a := by
  induction k generalizing a with
  | zero => rw [Nat.mul_zero, BitVec.add_zero]
  | succ k ih => rw [Nat.mul_succ, Nat.add_comm, ← add_four_add_ofNat, ih, isAligned_add_four]

namespace Memory

/-- The four bytes of a word placed at `a`, each read at its offset (R75). -/
theorem readByte_writeBytes_word (m : Memory) (a : Word) (w : InstrWord) {j : Nat} (hj : j < 4) :
    readByte (writeBytes m a (bytesOfWord w)) (a + BitVec.ofNat 64 j).toNat = (bytesOfWord w)[j]? := by
  obtain ⟨h0, h1, h2, h3⟩ := readByte_writeBytes_four m a (w.extractLsb' 0 8) (w.extractLsb' 8 8)
    (w.extractLsb' 16 8) (w.extractLsb' 24 8)
  interval_cases j
  · rw [BitVec.add_zero]; exact h0
  · exact h1
  · exact h2
  · exact h3

/-- Laying out a program leaves every address outside it alone. -/
theorem readByte_loadWords_other (m : Memory) (a : Word) (ws : List InstrWord) {x : Nat}
    (h : ∀ j < 4 * ws.length, x ≠ (a + BitVec.ofNat 64 j).toNat) : readByte (loadWords m a ws) x = readByte m x := by
  induction ws generalizing m a with
  | nil => rfl
  | cons w rest ih =>
    have hlen : 4 * (w :: rest).length = 4 + 4 * rest.length := by rw [List.length_cons]; omega
    rw [hlen] at h
    have hrest : ∀ j < 4 * rest.length, x ≠ (a + 4 + BitVec.ofNat 64 j).toNat := fun j hj => by
      rw [add_four_add_ofNat]
      exact h (4 + j) (Nat.add_lt_add_left hj 4)
    have hword : ∀ j < (bytesOfWord w).length, x ≠ (a + BitVec.ofNat 64 j).toNat := fun j hj =>
      h j (Nat.lt_add_right _ hj)
    exact (ih _ _ hrest).trans (readByte_writeBytes_other m a _ hword)

/-- Every byte of a program laid out from `a` reads back, as long as the program does not meet itself at the wrap
(D10, R75). -/
theorem readByte_loadWords (m : Memory) (a : Word) (ws : List InstrWord) (hlen : 4 * ws.length ≤ 2 ^ 64) {k j : Nat}
    (hk : k < ws.length) (hj : j < 4) :
    readByte (loadWords m a ws) (a + BitVec.ofNat 64 (4 * k + j)).toNat = (bytesOfWord ws[k])[j]? := by
  induction ws generalizing m a k with
  | nil => exact absurd hk (Nat.not_lt_zero k)
  | cons w rest ih =>
    rw [List.length_cons] at hlen hk
    cases k with
    | zero =>
      have hother : ∀ i < 4 * rest.length,
          (a + BitVec.ofNat 64 (4 * 0 + j)).toNat ≠ (a + 4 + BitVec.ofNat 64 i).toNat := fun i hi => by
        rw [add_four_add_ofNat]
        exact toNat_add_ne a (by omega) (by omega) (by omega)
      rw [loadWords, readByte_loadWords_other _ _ _ hother, Nat.mul_zero, Nat.zero_add]
      exact readByte_writeBytes_word m a w hj
    | succ k =>
      rw [show 4 * (k + 1) + j = 4 + (4 * k + j) by omega, ← add_four_add_ofNat]
      exact ih _ (a + 4) (by omega) (by omega)

end Memory

end Sys2Proof.Machine

namespace Sys2Proof

open Machine

/-- Settles O39: the two refusals, and otherwise the state that is named, which meets the invariant. -/
theorem launchRefusesOrStartsAsNamed : Obligations.LaunchRefusesOrStartsAsNamed := by
  refine fun l => ⟨launch_of_illegal, fun hlegal hpc => launch_of_misaligned hlegal ?_, fun hlegal hpc => ?_⟩
  · simpa [isAligned_eq] using hpc
  · obtain ⟨s, h⟩ := launch_starts hlegal (by simpa [isAligned_eq] using hpc)
    obtain ⟨-, -, -, hnamed⟩ := launch_next h
    exact ⟨s, h, inv_of_launch h, hnamed⟩

/-- Settles O40: the k-th address is aligned, and the four bytes there are the k-th word's. -/
theorem launchPlacesEveryWordOfTheProgram : Obligations.LaunchPlacesEveryWordOfTheProgram := by
  intro l s h hlen k hk
  obtain ⟨-, haligned, htext, -⟩ := launch_next h
  refine fetch_of_bytesOfWord ((isAligned_add_mul_four l.pc k).trans haligned) fun j hj => ?_
  rw [← Memory.readByte_loadWords [] l.pc l.program hlen hk hj, htext, BitVec.ofNat_add, BitVec.add_assoc]

end Sys2Proof
end

section
/-! The register as a whole (10_state.md R22 to R51): its number, its legality in terms of defined values and error
pairs, and the list of the legal values. -/

namespace Sys2Proof

/-- The sixteen fields one by one, from bit 63 down. -/
theorem Field.forall_iff (P : Field → Prop) : (∀ F, P F) ↔
    P .Spec_FPACC ∧ P .ADERR ∧ P .SDERR ∧ P .RES0 ∧ P .ANERR ∧ P .SNERR ∧ P .D128_2 ∧ P .D128 ∧ P .MEC ∧ P .AIE ∧
      P .S2POE ∧ P .S1POE ∧ P .S2PIE ∧ P .S1PIE ∧ P .SCTLRX ∧ P .TCRX := by
  constructor
  · exact fun h => ⟨h _, h _, h _, h _, h _, h _, h _, h _, h _, h _, h _, h _, h _, h _, h _, h _⟩
  · rintro ⟨_, _, _, _, _, _, _, _, _, _, _, _, _, _, _, _⟩ F
    cases F <;> assumption

/-- A sum over the sixteen fields, from bit 63 down. -/
theorem Field.sum_map_all (f : Field → Nat) : (Field.all.map f).sum =
    f .Spec_FPACC + f .ADERR + f .SDERR + f .RES0 + f .ANERR + f .SNERR + f .D128_2 + f .D128 + f .MEC + f .AIE +
      f .S2POE + f .S1POE + f .S2PIE + f .S1PIE + f .SCTLRX + f .TCRX := by
  simp [Field.all, Nat.add_assoc]

namespace IdReg

/-- A nibble put below a word is its last digit in base 16. -/
theorem toNat_append_nibble {w : Nat} (x : BitVec w) (n : Nibble) : (x ++ n).toNat = x.toNat * 16 + n.toNat := by
  rw [BitVec.toNat_append, ← Nat.shiftLeft_add_eq_or_of_lt n.isLt, Nat.shiftLeft_eq]

/-- R22's formula: a value put together from fields is their weighted sum. -/
theorem toNat_ofFields (n : Field → Nibble) : (ofFields n).toNat = weightedSum n := by
  simp only [ofFields, toNat_append_nibble, weightedSum, Field.sum_map_all, Field.lo]
  ring

/-- The tables of R31 and R38: a legal pair is one of three rows, or the fourth without FEAT_RASv2. -/
theorem errorPairLegal_iff_row (rasv2 : Bool) (async sync : Nibble) : errorPairLegal rasv2 async sync = true ↔
    (async, sync) ∈ [(0b0001, 0b0000), (0b0000, 0b0001), (0b0010, 0b0010)] ∨
      (async, sync) = (0b0000, 0b0000) ∧ rasv2 = false := by
  simp only [errorPairLegal, Bool.or_eq_true, Bool.and_eq_true, beq_iff_eq, Bool.not_eq_true', List.mem_cons,
    List.not_mem_nil, or_false, Prod.mk.injEq, or_assoc]

/-- Both fields of a legal pair hold a defined value. -/
theorem errorPairLegal_defined {rasv2 : Bool} {async sync : Nibble} (h : errorPairLegal rasv2 async sync = true) :
    async ∈ [(0b0000 : Nibble), 0b0001, 0b0010] ∧ sync ∈ [(0b0000 : Nibble), 0b0001, 0b0010] := by
  obtain ⟨rfl, rfl, -⟩ | ⟨rfl, rfl, -⟩ | ⟨rfl, rfl, -⟩ | ⟨rfl, rfl, -⟩ := errorReport_of_errorPairLegal h
  all_goals simp

/-- Of two defined values, the constraints of R27 and R30 (R34 and R36) leave exactly the legal pairs. -/
theorem errorPairLegal_iff_constraints (rasv2 : Bool) {async sync : Nibble}
    (ha : async ∈ [(0b0000 : Nibble), 0b0001, 0b0010]) (hs : sync ∈ [(0b0000 : Nibble), 0b0001, 0b0010]) :
    errorPairLegal rasv2 async sync = true ↔
      (rasv2 = true → sync = 0b0000 → async = 0b0001) ∧ (sync = 0b0001 → async = 0b0000) ∧
      (sync = 0b0010 → async = 0b0010) ∧ (rasv2 = true → async = 0b0000 → sync = 0b0001) ∧
      (async = 0b0001 → sync = 0b0000) ∧ (async = 0b0010 → sync = 0b0010) := by
  have every : ∀ a ∈ [(0b0000 : Nibble), 0b0001, 0b0010], ∀ s ∈ [(0b0000 : Nibble), 0b0001, 0b0010], ∀ r : Bool,
      (r = true → s = 0b0000 → a = 0b0001) ∧ (s = 0b0001 → a = 0b0000) ∧ (s = 0b0010 → a = 0b0010) ∧
      (r = true → a = 0b0000 → s = 0b0001) ∧ (a = 0b0001 → s = 0b0000) ∧ (a = 0b0010 → s = 0b0010) →
      errorPairLegal r a s = true := by decide
  exact ⟨errorPairLegal_constraints, every async ha sync hs rasv2⟩

/-- The two fields of a legal pair hold 0b0010 together (R28, R37). -/
theorem errorPairLegal_two_iff {rasv2 : Bool} {async sync : Nibble} (h : errorPairLegal rasv2 async sync = true) :
    async = 0b0010 ↔ sync = 0b0010 := by
  obtain ⟨-, -, htwo, -, -, htwo'⟩ := errorPairLegal_constraints h
  exact ⟨htwo', htwo⟩

/-- A legal pair has the report of its row, and the row of the controls is the one that holds 0b0010 (R31, R38). -/
theorem errorReport_described {rasv2 : Bool} {async sync : Nibble} (h : errorPairLegal rasv2 async sync = true) :
    ∃ r, errorReport async sync = some r ∧
      ((async, sync, r) ∈ [(0b0001, 0b0000, .someAsynchronous), (0b0000, 0b0001, .allSynchronous),
          (0b0010, 0b0010, .controlsImplemented)] ∨
        (async, sync, r) = (0b0000, 0b0000, .notDescribed) ∧ rasv2 = false) ∧
      (r = .controlsImplemented ↔ (async == 0b0010) = true) ∧
      (r = .controlsImplemented ↔ (async == 0b0010 || sync == 0b0010) = true) := by
  obtain ⟨rfl, rfl, e⟩ | ⟨rfl, rfl, e⟩ | ⟨rfl, rfl, e⟩ | ⟨rfl, rfl, e, rfl⟩ := errorReport_of_errorPairLegal h
  all_goals exact ⟨_, e, by simp⟩

/-- A feature that is "the field holds 0b0001" is the case exactly when the field reports support (R41 to R46). -/
theorem feature_iff {c : Config} {f : Feature} {F : Field}
    (h : c.isFeatureImplemented f = (fieldOf F c.IDREG == 0b0001)) :
    (c.isFeatureImplemented f = true ↔ fieldOf F c.IDREG = 0b0001) ∧
      (c.isFeatureImplemented f = true ↔ support F c.IDREG = some true) := by
  rw [h, beq_iff_eq]
  exact ⟨.rfl, (support_eq_some_true F c.IDREG).symm⟩

/-- A 0-or-1 field holds one of its two defined values. -/
theorem zeroOrOne_iff_mem (F : Field) (v : Word) : zeroOrOne F v = true ↔ fieldOf F v ∈ [(0b0000 : Nibble), 0b0001] := by
  simp [zeroOrOne_iff]

/-- The clause of R50 for Spec_FPACC is that the field holds a defined value (R23). -/
theorem specFpacc_iff_mem (v : Word) (fpaccombine : Bool) :
    (if fpaccombine = true then fieldOf .Spec_FPACC v = 0b0000 ∨ fieldOf .Spec_FPACC v = 0b0001
      else fieldOf .Spec_FPACC v = 0b0000) ↔
    fieldOf .Spec_FPACC v ∈ Field.definedValues fpaccombine .Spec_FPACC := by
  cases fpaccombine <;> simp [Field.definedValues]

/-- R50: legality is a defined value in every field and a legal pair of error fields twice. -/
theorem legal_iff_defined (v : Word) (rasv2 fpaccombine : Bool) : legal v rasv2 fpaccombine = true ↔
    (∀ F : Field, fieldOf F v ∈ F.definedValues fpaccombine) ∧
      errorPairLegal rasv2 (fieldOf .ADERR v) (fieldOf .SDERR v) = true ∧
      errorPairLegal rasv2 (fieldOf .ANERR v) (fieldOf .SNERR v) = true := by
  rw [legal_iff, specFpacc_iff_mem, Field.forall_iff]
  simp only [zeroOrOne_iff_mem]
  constructor
  · rintro ⟨hfpacc, hdevice, hres0, hnormal, hflags⟩
    obtain ⟨haderr, hsderr⟩ := errorPairLegal_defined hdevice
    obtain ⟨hanerr, hsnerr⟩ := errorPairLegal_defined hnormal
    exact ⟨⟨hfpacc, haderr, hsderr, List.mem_singleton.mpr hres0, hanerr, hsnerr, hflags⟩, hdevice, hnormal⟩
  · rintro ⟨⟨hfpacc, -, -, hres0, -, -, hflags⟩, hdevice, hnormal⟩
    exact ⟨hfpacc, hdevice, List.mem_singleton.mp hres0, hnormal, hflags⟩

/-- What is free in a legal value: Spec_FPACC, the pairs (ADERR, SDERR) and (ANERR, SNERR), and the ten 0-or-1
fields. -/
abbrev Choice : Type := Nibble × (Nibble × Nibble) × (Nibble × Nibble) × (Fin 10 → Bool)

/-- The chosen Spec_FPACC. -/
abbrev Choice.specFpacc (c : Choice) : Nibble := c.1

/-- The chosen pair (ADERR, SDERR). -/
abbrev Choice.device (c : Choice) : Nibble × Nibble := c.2.1

/-- The chosen pair (ANERR, SNERR). -/
abbrev Choice.normal (c : Choice) : Nibble × Nibble := c.2.2.1

/-- Which of the ten 0-or-1 fields hold 0b0001. -/
abbrev Choice.flags (c : Choice) : Fin 10 → Bool := c.2.2.2

/-- The ten 0-or-1 fields, from bit 39 down. -/
def flagField : Fin 10 → Field :=
  ![.D128_2, .D128, .MEC, .AIE, .S2POE, .S1POE, .S2PIE, .S1PIE, .SCTLRX, .TCRX]

/-- The value of a 0-or-1 field. -/
def flagValue (b : Bool) : Nibble := if b then 0b0001 else 0b0000

/-- The field values of a choice. -/
def Choice.fields (c : Choice) : Field → Nibble
  | .Spec_FPACC => c.specFpacc
  | .ADERR => c.device.1
  | .SDERR => c.device.2
  | .RES0 => 0b0000
  | .ANERR => c.normal.1
  | .SNERR => c.normal.2
  | .D128_2 => flagValue (c.flags 0)
  | .D128 => flagValue (c.flags 1)
  | .MEC => flagValue (c.flags 2)
  | .AIE => flagValue (c.flags 3)
  | .S2POE => flagValue (c.flags 4)
  | .S1POE => flagValue (c.flags 5)
  | .S2PIE => flagValue (c.flags 6)
  | .S1PIE => flagValue (c.flags 7)
  | .SCTLRX => flagValue (c.flags 8)
  | .TCRX => flagValue (c.flags 9)

/-- The value of a choice. -/
def Choice.word (c : Choice) : Word := ofFields c.fields

/-- The choice a value makes. -/
def choiceOf (v : Word) : Choice :=
  (fieldOf .Spec_FPACC v, (fieldOf .ADERR v, fieldOf .SDERR v), (fieldOf .ANERR v, fieldOf .SNERR v),
    fun i => fieldOf (flagField i) v == 0b0001)

theorem flagValue_mem (b : Bool) : flagValue b ∈ [(0b0000 : Nibble), 0b0001] := by
  cases b <;> decide

theorem flagValue_beq_one (b : Bool) : (flagValue b == 0b0001) = b := by
  cases b <;> rfl

theorem flagValue_of_mem {n : Nibble} (h : n ∈ [(0b0000 : Nibble), 0b0001]) : flagValue (n == 0b0001) = n := by
  revert n
  decide

@[simp] theorem fieldOf_word (F : Field) (c : Choice) : fieldOf F c.word = c.fields F :=
  fieldOf_ofFields F c.fields

/-- Each 0-or-1 field of a choice is its flag. -/
theorem fields_flagField (c : Choice) (i : Fin 10) : c.fields (flagField i) = flagValue (c.flags i) := by
  fin_cases i <;> rfl

theorem choiceOf_word (c : Choice) : choiceOf c.word = c := by
  simp only [choiceOf, fieldOf_word, fields_flagField, flagValue_beq_one]
  rfl

/-- A value is its choice's, when its reserved bits are zero and its 0-or-1 fields hold defined values. -/
theorem word_choiceOf {v : Word} {fpaccombine : Bool} (h : ∀ F : Field, fieldOf F v ∈ F.definedValues fpaccombine) :
    (choiceOf v).word = v := by
  have hfields : (choiceOf v).fields = fun F => fieldOf F v := by
    funext F
    cases F
    case Spec_FPACC | ADERR | SDERR | ANERR | SNERR => rfl
    case RES0 => exact (List.mem_singleton.mp (h .RES0)).symm
    all_goals exact flagValue_of_mem (h _)
  rw [Choice.word, hfields, ofFields_fieldOf]

/-- The pairs of the tables of R31 and R38. -/
def errorPairs (rasv2 : Bool) : Finset (Nibble × Nibble) :=
  if rasv2 then {(0b0001, 0b0000), (0b0000, 0b0001), (0b0010, 0b0010)}
  else {(0b0001, 0b0000), (0b0000, 0b0001), (0b0010, 0b0010), (0b0000, 0b0000)}

theorem mem_errorPairs (rasv2 : Bool) (p : Nibble × Nibble) :
    p ∈ errorPairs rasv2 ↔ errorPairLegal rasv2 p.1 p.2 = true := by
  rw [errorPairLegal_iff_row]
  cases rasv2 <;> simp [errorPairs, or_assoc]

/-- The choices of the legal values. -/
def legalChoices (rasv2 fpaccombine : Bool) : Finset Choice :=
  (Field.definedValues fpaccombine .Spec_FPACC).toFinset ×ˢ errorPairs rasv2 ×ˢ errorPairs rasv2 ×ˢ Finset.univ

theorem mem_legalChoices (rasv2 fpaccombine : Bool) (c : Choice) : c ∈ legalChoices rasv2 fpaccombine ↔
    c.specFpacc ∈ Field.definedValues fpaccombine .Spec_FPACC ∧ errorPairLegal rasv2 c.device.1 c.device.2 = true ∧
      errorPairLegal rasv2 c.normal.1 c.normal.2 = true := by
  simp [legalChoices, mem_errorPairs]

/-- The values of these choices are legal. -/
theorem legal_word {rasv2 fpaccombine : Bool} {c : Choice} (h : c ∈ legalChoices rasv2 fpaccombine) :
    legal c.word rasv2 fpaccombine = true := by
  obtain ⟨hfpacc, hdevice, hnormal⟩ := (mem_legalChoices ..).mp h
  obtain ⟨haderr, hsderr⟩ := errorPairLegal_defined hdevice
  obtain ⟨hanerr, hsnerr⟩ := errorPairLegal_defined hnormal
  simp only [legal_iff_defined, fieldOf_word]
  refine ⟨fun F => ?_, hdevice, hnormal⟩
  cases F
  case Spec_FPACC => exact hfpacc
  case ADERR => exact haderr
  case SDERR => exact hsderr
  case RES0 => exact List.mem_singleton.mpr rfl
  case ANERR => exact hanerr
  case SNERR => exact hsnerr
  all_goals exact flagValue_mem _

/-- The legal values are the values of these choices. -/
theorem legal_iff_exists_choice (v : Word) (rasv2 fpaccombine : Bool) : legal v rasv2 fpaccombine = true ↔
    ∃ c ∈ legalChoices rasv2 fpaccombine, c.word = v := by
  constructor
  · intro h
    obtain ⟨hdefined, hdevice, hnormal⟩ := (legal_iff_defined ..).mp h
    exact ⟨choiceOf v, (mem_legalChoices ..).mpr ⟨hdefined .Spec_FPACC, hdevice, hnormal⟩, word_choiceOf hdefined⟩
  · rintro ⟨c, hc, rfl⟩
    exact legal_word hc

theorem card_legalChoices (rasv2 fpaccombine : Bool) :
    (legalChoices rasv2 fpaccombine).card =
      (if fpaccombine then 2 else 1) * ((if rasv2 then 3 else 4) * ((if rasv2 then 3 else 4) * 2 ^ 10)) := by
  have hpairs : (errorPairs rasv2).card = if rasv2 then 3 else 4 := by cases rasv2 <;> rfl
  have hfpacc : (Field.definedValues fpaccombine .Spec_FPACC).toFinset.card = if fpaccombine then 2 else 1 := by
    cases fpaccombine <;> rfl
  rw [legalChoices, Finset.card_product, Finset.card_product, Finset.card_product, hpairs, hfpacc, Finset.card_univ,
    Fintype.card_fun, Fintype.card_bool, Fintype.card_fin]

end IdReg

open IdReg Machine

/-- Settles O46: the values of the legal choices, which a value determines, and the product of the choices. -/
theorem legalValuesAreCounted : Obligations.LegalValuesAreCounted := by
  intro rasv2 fpaccombine
  refine ⟨(legalChoices rasv2 fpaccombine).toList.map Choice.word, ?_, fun v => ?_, ?_⟩
  · exact (Finset.nodup_toList _).map (Function.LeftInverse.injective choiceOf_word)
  · simp only [List.mem_map, Finset.mem_toList, legal_iff_exists_choice]
  · rw [List.length_map, Finset.length_toList, card_legalChoices]
    cases rasv2 <;> cases fpaccombine <;> rfl

/-- Settles O45: a legal value has two legal pairs, and any two legal pairs are those of the legal value with every other
field zero. -/
theorem legalErrorPairsAreTheTabulatedOnes : Obligations.LegalErrorPairsAreTheTabulatedOnes := by
  intro rasv2 fpaccombine ad sd an sn
  rw [← errorPairLegal_iff_row, ← errorPairLegal_iff_row]
  constructor
  · rintro ⟨v, h, rfl, rfl, rfl, rfl⟩
    exact ((legal_iff_defined ..).mp h).2
  · rintro ⟨hdevice, hnormal⟩
    have hzero : 0b0000 ∈ Field.definedValues fpaccombine .Spec_FPACC := by cases fpaccombine <;> decide
    refine ⟨Choice.word (0b0000, (ad, sd), (an, sn), fun _ => false), ?_, fieldOf_word .., fieldOf_word ..,
      fieldOf_word .., fieldOf_word ..⟩
    exact legal_word ((mem_legalChoices ..).mpr ⟨hzero, hdevice, hnormal⟩)

/-- Settles O44: of defined values, the constraints leave exactly the legal pairs. -/
theorem legalityIsDefinedValuesAndConstraints : Obligations.LegalityIsDefinedValuesAndConstraints := by
  intro v rasv2 fpaccombine
  rw [legal_iff_defined]
  refine and_congr_right fun hdefined => ?_
  rw [List.forall_mem_cons, List.forall_mem_singleton]
  exact and_congr (errorPairLegal_iff_constraints rasv2 (hdefined .ADERR) (hdefined .SDERR))
    (errorPairLegal_iff_constraints rasv2 (hdefined .ANERR) (hdefined .SNERR))

/-- Settles O41: each field is a digit in base 16, and a legal value's digit at bit 48 is zero. -/
theorem registerIsTheSumOfItsFields : Obligations.RegisterIsTheSumOfItsFields := by
  refine ⟨fun v => ?_, fun c => ?_⟩
  · have hfields := (Field.forall_iff _).mp fun F => toNat_fieldOf F v
    simpa only [Field.lo, pow_zero, Nat.div_one] using hfields
  · obtain ⟨-, -, hres0, -⟩ := (legal_iff ..).mp c.legal
    have hsum := toNat_ofFields fun F => fieldOf F c.IDREG
    have hdigit : (fieldOf .RES0 c.IDREG).toNat = 0 := by rw [hres0]; rfl
    rw [ofFields_fieldOf, weightedSum, Field.sum_map_all, hdigit] at hsum
    simpa only [Field.lo, pow_zero, Nat.mul_one] using hsum

/-- Settles O47: the all-zero value's error pairs are the row that FEAT_RASv2 excludes, and a completed read delivers
IDREG. -/
theorem allZeroRegisterReadsAsZero : Obligations.AllZeroRegisterReadsAsZero := by
  refine ⟨by decide, fun s s' t ht hzero h => ?_⟩
  rw [exec_next h, readX_afterRead_self s ht, hzero]

/-- Settles O48: a feature is an equation on its field; in a legal pair both fields hold 0b0010 together, and a 0-or-1
field reports support exactly at 0b0001. -/
theorem featureFactsFollowTheFields : Obligations.FeatureFactsFollowTheFields := by
  intro c
  obtain ⟨-, hdevice, -, hnormal, -⟩ := (legal_iff ..).mp c.legal
  refine ⟨beq_iff_eq, beq_iff_eq.trans (errorPairLegal_two_iff hdevice), beq_iff_eq,
    beq_iff_eq.trans (errorPairLegal_two_iff hnormal), ?_⟩
  simp only [List.forall_mem_cons]
  exact ⟨feature_iff rfl, feature_iff rfl, feature_iff rfl, feature_iff rfl, feature_iff rfl, feature_iff rfl,
    List.forall_mem_nil _⟩

/-- Settles O49: both error pairs of a legal configuration are legal pairs, each with the report of its row. -/
theorem errorReportsAreDescribed : Obligations.ErrorReportsAreDescribed := by
  intro c
  obtain ⟨-, hdevice, -, hnormal, -⟩ := (legal_iff ..).mp c.legal
  exact ⟨errorReport_described hdevice, errorReport_described hnormal⟩

end Sys2Proof
end
